-- ==== Sys2Proof/Word.lean ====
section
/-!
DEFINITION. The word types of the machine (R8, R13 of spec/00_scope.md): every register and memory byte is an unsigned
8-bit number, every CPU address and the program counter a 16-bit number.
-/
namespace Sys2Proof

/-- An 8-bit register or one byte of memory. -/
abbrev Byte := BitVec 8

/-- A 16-bit CPU address. -/
abbrev Word := BitVec 16

end Sys2Proof
end

