-- ==== Sys2Proof/Config.lean ====
section
/-!
DEFINITION. The parameters of rule R9 of spec/00_scope.md: what the host supplies before `powerUp()` (R326), as plain data
that State carries unchanged (`Launch`), and the two parameters that no source gives a value for, as constants without a
body (`Config.rgbTable`, `Config.spriteDraw`).
-/
namespace Sys2Proof

/-- Bytes (or other w-bit entries) by index: a list of (index, value) pairs. An index not listed reads as 0. The canonical
form (indices strictly rising, no entry 0) is `Machine.Mem.wf`. For w = 8 an entry is a `Host.Cell`. -/
abbrev Mem (w : Nat) := List (Nat × BitVec w)

/-- The launch parameter MIRRORING (R9, R82): the type has no other value (U8). -/
inductive Mirroring where
  | horizontal
  | vertical
  deriving DecidableEq, Repr

/-- The launch parameter SPRITE_STATUS_ORACLE (R9, R305): `never` leaves both sprite status bits as they are,
`unconstrained` lets each rendering cycle set either bit, as the free value `Config.spriteDraw` says. -/
inductive SpriteOracle where
  | never
  | unconstrained
  deriving DecidableEq, Repr

/-- One row of CYCLES (R9, R131, D6): the base count and the two penalty flags of spec/opcode_table.json. -/
structure CycleRow where
  /-- `cycles`. -/
  base : Nat
  /-- `page_cross_penalty`: an indexed address that crosses a page costs one cycle more (R131). -/
  pageCross : Bool
  /-- `branch_penalty`: the extra cycles of a taken branch are added (R113 `b`, R225; log entry 11). -/
  branch : Bool
  deriving DecidableEq, Repr

/-- The launch parameters of R9, supplied by the host before `powerUp()` and constant afterwards (R326, R88). -/
structure Launch where
  /-- EXT0: the launch content of `EXT`; an index not listed is 0. -/
  ext0 : Mem 8
  /-- CHR0: the launch content of `CHR`; an index not listed is 0. -/
  chr0 : Mem 8
  /-- MIRRORING. -/
  mirroring : Mirroring
  /-- CYCLES: rows that replace the standard table's, by opcode byte; none listed is the default table. -/
  cycleRows : List (Byte × CycleRow)
  /-- NMI_CYCLES. -/
  nmiCycles : Nat
  /-- RESET_CYCLES. -/
  resetCycles : Nat
  /-- DMA_STALL_CYCLES. -/
  dmaStallCycles : Nat
  /-- RAM_MIRROR_LAST. -/
  ramMirrorLast : Word
  /-- PPUDATA_READ_INCREMENT. -/
  ppudataReadIncrement : Bool
  /-- SPRITE_STATUS_ORACLE. -/
  spriteOracle : SpriteOracle
  deriving DecidableEq, Repr

/-- The defaults of R9. Where R9 gives none ("supplied at launch") the images are all zero (DESIGN CHOICE, unsafe for a claim
about the run from reset only, log entry 4) and the mirroring is vertical (DESIGN CHOICE, unsafe likewise, log entry 5). -/
def Launch.standard : Launch where
  ext0 := []
  chr0 := []
  mirroring := .vertical
  cycleRows := []
  nmiCycles := 7
  resetCycles := 7
  dmaStallCycles := 0
  ramMirrorLast := 0x1FFF
  ppudataReadIncrement := false
  spriteOracle := .unconstrained

/-- An RGB triple of the query `Rgb` (R309). The spec prints no range for a component: that each is 8 bits wide is a DESIGN
CHOICE (log entry 8). -/
structure RgbTriple where
  red : Byte
  green : Byte
  blue : Byte
  deriving DecidableEq, Repr, Inhabited

/-- Which of the two sprite status bits one draw of the oracle sets (R305). -/
structure SpriteDraw where
  hit : Bool
  overflow : Bool
  deriving DecidableEq, Repr, Inhabited

/-- RGB_TABLE (R9, R309): 64 triples that the source does not print. A free value (safe, log entry 8). -/
opaque Config.rgbTable : BitVec 6 → RgbTriple

/-- SPRITE_STATUS_ORACLE, unconstrained (R9, R305): the n-th draw. A free value (safe, log entry 7). -/
opaque Config.spriteDraw : Nat → SpriteDraw

end Sys2Proof
end

