-- ==== Sys2Proof/Syntax.lean ====
section
/-!
DEFINITION. The documented 6502 instruction set (R2, R110 to R113 of spec/30_encoding.md): 56 mnemonics, 13 addressing modes,
and `Instr`, one constructor per row of spec/opcode_table.json, with its operand as the spec assembles it (R103, R104).
The byte after a BRK opcode is no operand: it is never read (R115, R223).
-/
namespace Sys2Proof

/-- The 13 addressing modes, with the short names of R102. -/
inductive Mode where
  | impl | acc | imm | zp | zpx | zpy | rel | abs | absx | absy | ind | indx | indy
  deriving DecidableEq, Repr

/-- The 56 mnemonics, in the order of R113. -/
inductive Mnemonic where
  | lda | ldx | ldy | sta | stx | sty | tax | tay | txa | tya | tsx | txs | pha | php | pla | plp | and
  | ora | eor | bit | adc | sbc | cmp | cpx | cpy | inc | inx | iny | dec | dex | dey | asl | lsr | rol
  | ror | jmp | jsr | rts | brk | rti | bcc | bcs | beq | bne | bmi | bpl | bvc | bvs | clc | sec | cli
  | sei | clv | cld | sed | nop
  deriving DecidableEq, Repr

/-- The documented instructions. `m` is an immediate byte, `z` a zero-page address or pointer base, `d` a branch offset byte,
`a` a 16-bit address, base or pointer (R103, R104). -/
inductive Instr where
  -- LDA (R150)
  | ldaImm (m : Byte)
  | ldaZp (z : Byte)
  | ldaZpx (z : Byte)
  | ldaAbs (a : Word)
  | ldaAbsx (a : Word)
  | ldaAbsy (a : Word)
  | ldaIndx (z : Byte)
  | ldaIndy (z : Byte)
  -- LDX (R151)
  | ldxImm (m : Byte)
  | ldxZp (z : Byte)
  | ldxZpy (z : Byte)
  | ldxAbs (a : Word)
  | ldxAbsy (a : Word)
  -- LDY (R152)
  | ldyImm (m : Byte)
  | ldyZp (z : Byte)
  | ldyZpx (z : Byte)
  | ldyAbs (a : Word)
  | ldyAbsx (a : Word)
  -- STA (R153)
  | staZp (z : Byte)
  | staZpx (z : Byte)
  | staAbs (a : Word)
  | staAbsx (a : Word)
  | staAbsy (a : Word)
  | staIndx (z : Byte)
  | staIndy (z : Byte)
  -- STX (R154)
  | stxZp (z : Byte)
  | stxZpy (z : Byte)
  | stxAbs (a : Word)
  -- STY (R155)
  | styZp (z : Byte)
  | styZpx (z : Byte)
  | styAbs (a : Word)
  -- TAX (R156)
  | tax
  -- TAY (R157)
  | tay
  -- TXA (R158)
  | txa
  -- TYA (R159)
  | tya
  -- TSX (R160)
  | tsx
  -- TXS (R161)
  | txs
  -- PHA (R172)
  | pha
  -- PHP (R173)
  | php
  -- PLA (R174)
  | pla
  -- PLP (R175)
  | plp
  -- AND (R180)
  | andImm (m : Byte)
  | andZp (z : Byte)
  | andZpx (z : Byte)
  | andAbs (a : Word)
  | andAbsx (a : Word)
  | andAbsy (a : Word)
  | andIndx (z : Byte)
  | andIndy (z : Byte)
  -- ORA (R181)
  | oraImm (m : Byte)
  | oraZp (z : Byte)
  | oraZpx (z : Byte)
  | oraAbs (a : Word)
  | oraAbsx (a : Word)
  | oraAbsy (a : Word)
  | oraIndx (z : Byte)
  | oraIndy (z : Byte)
  -- EOR (R182)
  | eorImm (m : Byte)
  | eorZp (z : Byte)
  | eorZpx (z : Byte)
  | eorAbs (a : Word)
  | eorAbsx (a : Word)
  | eorAbsy (a : Word)
  | eorIndx (z : Byte)
  | eorIndy (z : Byte)
  -- BIT (R183)
  | bitZp (z : Byte)
  | bitAbs (a : Word)
  -- ADC (R184)
  | adcImm (m : Byte)
  | adcZp (z : Byte)
  | adcZpx (z : Byte)
  | adcAbs (a : Word)
  | adcAbsx (a : Word)
  | adcAbsy (a : Word)
  | adcIndx (z : Byte)
  | adcIndy (z : Byte)
  -- SBC (R185)
  | sbcImm (m : Byte)
  | sbcZp (z : Byte)
  | sbcZpx (z : Byte)
  | sbcAbs (a : Word)
  | sbcAbsx (a : Word)
  | sbcAbsy (a : Word)
  | sbcIndx (z : Byte)
  | sbcIndy (z : Byte)
  -- CMP (R188)
  | cmpImm (m : Byte)
  | cmpZp (z : Byte)
  | cmpZpx (z : Byte)
  | cmpAbs (a : Word)
  | cmpAbsx (a : Word)
  | cmpAbsy (a : Word)
  | cmpIndx (z : Byte)
  | cmpIndy (z : Byte)
  -- CPX (R189)
  | cpxImm (m : Byte)
  | cpxZp (z : Byte)
  | cpxAbs (a : Word)
  -- CPY (R190)
  | cpyImm (m : Byte)
  | cpyZp (z : Byte)
  | cpyAbs (a : Word)
  -- INC (R201)
  | incZp (z : Byte)
  | incZpx (z : Byte)
  | incAbs (a : Word)
  | incAbsx (a : Word)
  -- INX (R202)
  | inx
  -- INY (R203)
  | iny
  -- DEC (R204)
  | decZp (z : Byte)
  | decZpx (z : Byte)
  | decAbs (a : Word)
  | decAbsx (a : Word)
  -- DEX (R205)
  | dex
  -- DEY (R206)
  | dey
  -- ASL (R207)
  | aslAcc
  | aslZp (z : Byte)
  | aslZpx (z : Byte)
  | aslAbs (a : Word)
  | aslAbsx (a : Word)
  -- LSR (R208)
  | lsrAcc
  | lsrZp (z : Byte)
  | lsrZpx (z : Byte)
  | lsrAbs (a : Word)
  | lsrAbsx (a : Word)
  -- ROL (R209)
  | rolAcc
  | rolZp (z : Byte)
  | rolZpx (z : Byte)
  | rolAbs (a : Word)
  | rolAbsx (a : Word)
  -- ROR (R210)
  | rorAcc
  | rorZp (z : Byte)
  | rorZpx (z : Byte)
  | rorAbs (a : Word)
  | rorAbsx (a : Word)
  -- JMP (R220)
  | jmpAbs (a : Word)
  | jmpInd (a : Word)
  -- JSR (R221)
  | jsr (a : Word)
  -- RTS (R222)
  | rts
  -- BRK (R223)
  | brk
  -- RTI (R224)
  | rti
  -- BCC (R226)
  | bcc (d : Byte)
  -- BCS (R227)
  | bcs (d : Byte)
  -- BEQ (R228)
  | beq (d : Byte)
  -- BNE (R229)
  | bne (d : Byte)
  -- BMI (R230)
  | bmi (d : Byte)
  -- BPL (R231)
  | bpl (d : Byte)
  -- BVC (R232)
  | bvc (d : Byte)
  -- BVS (R233)
  | bvs (d : Byte)
  -- CLC (R240)
  | clc
  -- SEC (R241)
  | sec
  -- CLI (R242)
  | cli
  -- SEI (R243)
  | sei
  -- CLV (R244)
  | clv
  -- CLD (R245)
  | cld
  -- SED (R246)
  | sed
  -- NOP (R247)
  | nop
  deriving DecidableEq, Repr

/-- The addressing mode of an instruction (R113). -/
def Instr.mode : Instr → Mode
  | .tax | .tay | .txa | .tya | .tsx | .txs | .pha | .php | .pla | .plp | .inx | .iny | .dex | .dey
  | .rts | .brk | .rti | .clc | .sec | .cli | .sei | .clv | .cld | .sed | .nop => .impl
  | .aslAcc | .lsrAcc | .rolAcc | .rorAcc => .acc
  | .ldaImm _ | .ldxImm _ | .ldyImm _ | .andImm _ | .oraImm _ | .eorImm _ | .adcImm _ | .sbcImm _
  | .cmpImm _ | .cpxImm _ | .cpyImm _ => .imm
  | .ldaZp _ | .ldxZp _ | .ldyZp _ | .staZp _ | .stxZp _ | .styZp _ | .andZp _ | .oraZp _ | .eorZp _
  | .bitZp _ | .adcZp _ | .sbcZp _ | .cmpZp _ | .cpxZp _ | .cpyZp _ | .incZp _ | .decZp _ | .aslZp _
  | .lsrZp _ | .rolZp _ | .rorZp _ => .zp
  | .ldaZpx _ | .ldyZpx _ | .staZpx _ | .styZpx _ | .andZpx _ | .oraZpx _ | .eorZpx _ | .adcZpx _
  | .sbcZpx _ | .cmpZpx _ | .incZpx _ | .decZpx _ | .aslZpx _ | .lsrZpx _ | .rolZpx _ | .rorZpx _ => .zpx
  | .ldxZpy _ | .stxZpy _ => .zpy
  | .bcc _ | .bcs _ | .beq _ | .bne _ | .bmi _ | .bpl _ | .bvc _ | .bvs _ => .rel
  | .ldaAbs _ | .ldxAbs _ | .ldyAbs _ | .staAbs _ | .stxAbs _ | .styAbs _ | .andAbs _ | .oraAbs _
  | .eorAbs _ | .bitAbs _ | .adcAbs _ | .sbcAbs _ | .cmpAbs _ | .cpxAbs _ | .cpyAbs _ | .incAbs _
  | .decAbs _ | .aslAbs _ | .lsrAbs _ | .rolAbs _ | .rorAbs _ | .jmpAbs _ | .jsr _ => .abs
  | .ldaAbsx _ | .ldyAbsx _ | .staAbsx _ | .andAbsx _ | .oraAbsx _ | .eorAbsx _ | .adcAbsx _
  | .sbcAbsx _ | .cmpAbsx _ | .incAbsx _ | .decAbsx _ | .aslAbsx _ | .lsrAbsx _ | .rolAbsx _
  | .rorAbsx _ => .absx
  | .ldaAbsy _ | .ldxAbsy _ | .staAbsy _ | .andAbsy _ | .oraAbsy _ | .eorAbsy _ | .adcAbsy _
  | .sbcAbsy _ | .cmpAbsy _ => .absy
  | .jmpInd _ => .ind
  | .ldaIndx _ | .staIndx _ | .andIndx _ | .oraIndx _ | .eorIndx _ | .adcIndx _ | .sbcIndx _
  | .cmpIndx _ => .indx
  | .ldaIndy _ | .staIndy _ | .andIndy _ | .oraIndy _ | .eorIndy _ | .adcIndy _ | .sbcIndy _
  | .cmpIndy _ => .indy

/-- The mnemonic of an instruction (R113). -/
def Instr.mnemonic : Instr → Mnemonic
  | .ldaImm _ | .ldaZp _ | .ldaZpx _ | .ldaAbs _ | .ldaAbsx _ | .ldaAbsy _ | .ldaIndx _ | .ldaIndy _ => .lda
  | .ldxImm _ | .ldxZp _ | .ldxZpy _ | .ldxAbs _ | .ldxAbsy _ => .ldx
  | .ldyImm _ | .ldyZp _ | .ldyZpx _ | .ldyAbs _ | .ldyAbsx _ => .ldy
  | .staZp _ | .staZpx _ | .staAbs _ | .staAbsx _ | .staAbsy _ | .staIndx _ | .staIndy _ => .sta
  | .stxZp _ | .stxZpy _ | .stxAbs _ => .stx
  | .styZp _ | .styZpx _ | .styAbs _ => .sty
  | .tax => .tax
  | .tay => .tay
  | .txa => .txa
  | .tya => .tya
  | .tsx => .tsx
  | .txs => .txs
  | .pha => .pha
  | .php => .php
  | .pla => .pla
  | .plp => .plp
  | .andImm _ | .andZp _ | .andZpx _ | .andAbs _ | .andAbsx _ | .andAbsy _ | .andIndx _ | .andIndy _ => .and
  | .oraImm _ | .oraZp _ | .oraZpx _ | .oraAbs _ | .oraAbsx _ | .oraAbsy _ | .oraIndx _ | .oraIndy _ => .ora
  | .eorImm _ | .eorZp _ | .eorZpx _ | .eorAbs _ | .eorAbsx _ | .eorAbsy _ | .eorIndx _ | .eorIndy _ => .eor
  | .bitZp _ | .bitAbs _ => .bit
  | .adcImm _ | .adcZp _ | .adcZpx _ | .adcAbs _ | .adcAbsx _ | .adcAbsy _ | .adcIndx _ | .adcIndy _ => .adc
  | .sbcImm _ | .sbcZp _ | .sbcZpx _ | .sbcAbs _ | .sbcAbsx _ | .sbcAbsy _ | .sbcIndx _ | .sbcIndy _ => .sbc
  | .cmpImm _ | .cmpZp _ | .cmpZpx _ | .cmpAbs _ | .cmpAbsx _ | .cmpAbsy _ | .cmpIndx _ | .cmpIndy _ => .cmp
  | .cpxImm _ | .cpxZp _ | .cpxAbs _ => .cpx
  | .cpyImm _ | .cpyZp _ | .cpyAbs _ => .cpy
  | .incZp _ | .incZpx _ | .incAbs _ | .incAbsx _ => .inc
  | .inx => .inx
  | .iny => .iny
  | .decZp _ | .decZpx _ | .decAbs _ | .decAbsx _ => .dec
  | .dex => .dex
  | .dey => .dey
  | .aslAcc | .aslZp _ | .aslZpx _ | .aslAbs _ | .aslAbsx _ => .asl
  | .lsrAcc | .lsrZp _ | .lsrZpx _ | .lsrAbs _ | .lsrAbsx _ => .lsr
  | .rolAcc | .rolZp _ | .rolZpx _ | .rolAbs _ | .rolAbsx _ => .rol
  | .rorAcc | .rorZp _ | .rorZpx _ | .rorAbs _ | .rorAbsx _ => .ror
  | .jmpAbs _ | .jmpInd _ => .jmp
  | .jsr _ => .jsr
  | .rts => .rts
  | .brk => .brk
  | .rti => .rti
  | .bcc _ => .bcc
  | .bcs _ => .bcs
  | .beq _ => .beq
  | .bne _ => .bne
  | .bmi _ => .bmi
  | .bpl _ => .bpl
  | .bvc _ => .bvc
  | .bvs _ => .bvs
  | .clc => .clc
  | .sec => .sec
  | .cli => .cli
  | .sei => .sei
  | .clv => .clv
  | .cld => .cld
  | .sed => .sed
  | .nop => .nop

/-- The length of an instruction in bytes, fixed by its mode (R100, R101). -/
def Mode.length : Mode → Nat
  | .impl | .acc => 1
  | .imm | .zp | .zpx | .zpy | .rel | .indx | .indy => 2
  | .abs | .absx | .absy | .ind => 3

/-- The length of an instruction in bytes (R100). -/
def Instr.length (i : Instr) : Nat := i.mode.length

end Sys2Proof
end

