-- ==== Sys2Proof/WellFormed.lean ====
section
/-!
DEFINITION. Which instructions exist (R110, R113 of spec/30_encoding.md): an operation has only the addressing modes its rule
lists. Every term of `Instr` passes the check, since every operand byte is legal in every mode (R115). The terms the checks
refuse are lines of the assembler notation (R116): an operation with a mode it does not have, and a
branch label out of reach.
-/
namespace Sys2Proof

/-- The addressing modes each operation has: the "Operands" line of its own rule in files 41 to 46. -/
def Mnemonic.modes : Mnemonic → List Mode
  | .lda | .and | .ora | .eor | .adc | .sbc | .cmp => [.imm, .zp, .zpx, .abs, .absx, .absy, .indx, .indy]
  | .ldx => [.imm, .zp, .zpy, .abs, .absy]
  | .ldy => [.imm, .zp, .zpx, .abs, .absx]
  | .sta => [.zp, .zpx, .abs, .absx, .absy, .indx, .indy]
  | .stx => [.zp, .zpy, .abs]
  | .sty => [.zp, .zpx, .abs]
  | .bit => [.zp, .abs]
  | .cpx | .cpy => [.imm, .zp, .abs]
  | .inc | .dec => [.zp, .zpx, .abs, .absx]
  | .asl | .lsr | .rol | .ror => [.acc, .zp, .zpx, .abs, .absx]
  | .jmp => [.abs, .ind]
  | .jsr => [.abs]
  | .bcc | .bcs | .beq | .bne | .bmi | .bpl | .bvc | .bvs => [.rel]
  | .tax | .tay | .txa | .tya | .tsx | .txs | .pha | .php | .pla | .plp | .inx | .iny | .dex | .dey | .rts | .brk
  | .rti | .clc | .sec | .cli | .sei | .clv | .cld | .sed | .nop => [.impl]

/-- An instruction is well formed when its operation has its mode (R110). -/
def Instr.wellFormed (i : Instr) : Bool := i.mnemonic.modes.contains i.mode

/-- The operand of a line of the assembler notation (R116). -/
inductive AsmOperand where
  | none
  | acc
  | imm (m : Byte)
  | zp (z : Byte)
  | zpx (z : Byte)
  | zpy (z : Byte)
  | label (target : Word)
  | abs (a : Word)
  | absx (a : Word)
  | absy (a : Word)
  | ind (a : Word)
  | indx (z : Byte)
  | indy (z : Byte)
  deriving DecidableEq, Repr

/-- A line of the assembler notation, placed at an address (R116). -/
structure AsmLine where
  address : Word
  mnemonic : Mnemonic
  operand : AsmOperand
  deriving DecidableEq, Repr

/-- The mode a written operand stands for (R116). -/
def AsmOperand.mode : AsmOperand → Mode
  | .none => .impl
  | .acc => .acc
  | .imm _ => .imm
  | .zp _ => .zp
  | .zpx _ => .zpx
  | .zpy _ => .zpy
  | .label _ => .rel
  | .abs _ => .abs
  | .absx _ => .absx
  | .absy _ => .absy
  | .ind _ => .ind
  | .indx _ => .indx
  | .indy _ => .indy

/-- The distance a branch label is from the address of the next instruction, as a 16-bit difference (R116). -/
def AsmLine.distance (l : AsmLine) (target : Word) : Word := target - (l.address + 2)

/-- A label is in reach when its distance represents a value in -128..127 (R116). -/
def AsmLine.labelInReach (l : AsmLine) : Bool :=
  match l.operand with
  | .label target => decide (-128 ≤ (l.distance target).toInt) && decide ((l.distance target).toInt ≤ 127)
  | _ => true

/-- A line is well formed when its operation has its mode and a label operand is in reach (R110, R116). -/
def AsmLine.wellFormed (l : AsmLine) : Bool := l.mnemonic.modes.contains l.operand.mode && l.labelInReach

end Sys2Proof
end

