-- ==== Sys2Proof/Decode.lean ====
section
/-!
DEFINITION. The decoder, total on any bytes, written from the opcode matrix of rule R111 of spec/30_encoding.md, and the
encoder, written from the table of rule R113. Byte order by R70, R104: the low byte of a 16-bit operand comes first.
-/
namespace Sys2Proof

/-! ## Byte order (R70, R104) -/

/-- The 16-bit number whose low byte is `lo` and whose high byte is `hi`: `lo + 256 * hi`. -/
def leWord (lo hi : Byte) : Word := hi ++ lo

/-- Bits 7:0 of a word. -/
def loByte (w : Word) : Byte := w.extractLsb' 0 8

/-- Bits 15:8 of a word. -/
def hiByte (w : Word) : Byte := w.extractLsb' 8 8

/-! ## The opcode matrix (R111) -/

/-- What an opcode byte says of the bytes after it (the three formats of R101). Format F2 is split in two because the byte of
an immediate is read as the operand itself (R135), the byte of every other F2 mode by the resolver (R136 to R145). -/
inductive Form where
  | f1 (i : Instr)
  | f2imm (mk : Byte → Instr)
  | f2 (mk : Byte → Instr)
  | f3 (mk : Word → Instr)

/-- Row 0x of the matrix (R111). -/
def opcodeRow0 : List (Option Form) :=
  [some (.f1 .brk), some (.f2 .oraIndx), none, none,
   none, some (.f2 .oraZp), some (.f2 .aslZp), none,
   some (.f1 .php), some (.f2imm .oraImm), some (.f1 .aslAcc), none,
   none, some (.f3 .oraAbs), some (.f3 .aslAbs), none]

/-- Row 1x of the matrix (R111). -/
def opcodeRow1 : List (Option Form) :=
  [some (.f2 .bpl), some (.f2 .oraIndy), none, none,
   none, some (.f2 .oraZpx), some (.f2 .aslZpx), none,
   some (.f1 .clc), some (.f3 .oraAbsy), none, none,
   none, some (.f3 .oraAbsx), some (.f3 .aslAbsx), none]

/-- Row 2x of the matrix (R111). -/
def opcodeRow2 : List (Option Form) :=
  [some (.f3 .jsr), some (.f2 .andIndx), none, none,
   some (.f2 .bitZp), some (.f2 .andZp), some (.f2 .rolZp), none,
   some (.f1 .plp), some (.f2imm .andImm), some (.f1 .rolAcc), none,
   some (.f3 .bitAbs), some (.f3 .andAbs), some (.f3 .rolAbs), none]

/-- Row 3x of the matrix (R111). -/
def opcodeRow3 : List (Option Form) :=
  [some (.f2 .bmi), some (.f2 .andIndy), none, none,
   none, some (.f2 .andZpx), some (.f2 .rolZpx), none,
   some (.f1 .sec), some (.f3 .andAbsy), none, none,
   none, some (.f3 .andAbsx), some (.f3 .rolAbsx), none]

/-- Row 4x of the matrix (R111). -/
def opcodeRow4 : List (Option Form) :=
  [some (.f1 .rti), some (.f2 .eorIndx), none, none,
   none, some (.f2 .eorZp), some (.f2 .lsrZp), none,
   some (.f1 .pha), some (.f2imm .eorImm), some (.f1 .lsrAcc), none,
   some (.f3 .jmpAbs), some (.f3 .eorAbs), some (.f3 .lsrAbs), none]

/-- Row 5x of the matrix (R111). -/
def opcodeRow5 : List (Option Form) :=
  [some (.f2 .bvc), some (.f2 .eorIndy), none, none,
   none, some (.f2 .eorZpx), some (.f2 .lsrZpx), none,
   some (.f1 .cli), some (.f3 .eorAbsy), none, none,
   none, some (.f3 .eorAbsx), some (.f3 .lsrAbsx), none]

/-- Row 6x of the matrix (R111). -/
def opcodeRow6 : List (Option Form) :=
  [some (.f1 .rts), some (.f2 .adcIndx), none, none,
   none, some (.f2 .adcZp), some (.f2 .rorZp), none,
   some (.f1 .pla), some (.f2imm .adcImm), some (.f1 .rorAcc), none,
   some (.f3 .jmpInd), some (.f3 .adcAbs), some (.f3 .rorAbs), none]

/-- Row 7x of the matrix (R111). -/
def opcodeRow7 : List (Option Form) :=
  [some (.f2 .bvs), some (.f2 .adcIndy), none, none,
   none, some (.f2 .adcZpx), some (.f2 .rorZpx), none,
   some (.f1 .sei), some (.f3 .adcAbsy), none, none,
   none, some (.f3 .adcAbsx), some (.f3 .rorAbsx), none]

/-- Row 8x of the matrix (R111). -/
def opcodeRow8 : List (Option Form) :=
  [none, some (.f2 .staIndx), none, none,
   some (.f2 .styZp), some (.f2 .staZp), some (.f2 .stxZp), none,
   some (.f1 .dey), none, some (.f1 .txa), none,
   some (.f3 .styAbs), some (.f3 .staAbs), some (.f3 .stxAbs), none]

/-- Row 9x of the matrix (R111). -/
def opcodeRow9 : List (Option Form) :=
  [some (.f2 .bcc), some (.f2 .staIndy), none, none,
   some (.f2 .styZpx), some (.f2 .staZpx), some (.f2 .stxZpy), none,
   some (.f1 .tya), some (.f3 .staAbsy), some (.f1 .txs), none,
   none, some (.f3 .staAbsx), none, none]

/-- Row Ax of the matrix (R111). -/
def opcodeRowA : List (Option Form) :=
  [some (.f2imm .ldyImm), some (.f2 .ldaIndx), some (.f2imm .ldxImm), none,
   some (.f2 .ldyZp), some (.f2 .ldaZp), some (.f2 .ldxZp), none,
   some (.f1 .tay), some (.f2imm .ldaImm), some (.f1 .tax), none,
   some (.f3 .ldyAbs), some (.f3 .ldaAbs), some (.f3 .ldxAbs), none]

/-- Row Bx of the matrix (R111). -/
def opcodeRowB : List (Option Form) :=
  [some (.f2 .bcs), some (.f2 .ldaIndy), none, none,
   some (.f2 .ldyZpx), some (.f2 .ldaZpx), some (.f2 .ldxZpy), none,
   some (.f1 .clv), some (.f3 .ldaAbsy), some (.f1 .tsx), none,
   some (.f3 .ldyAbsx), some (.f3 .ldaAbsx), some (.f3 .ldxAbsy), none]

/-- Row Cx of the matrix (R111). -/
def opcodeRowC : List (Option Form) :=
  [some (.f2imm .cpyImm), some (.f2 .cmpIndx), none, none,
   some (.f2 .cpyZp), some (.f2 .cmpZp), some (.f2 .decZp), none,
   some (.f1 .iny), some (.f2imm .cmpImm), some (.f1 .dex), none,
   some (.f3 .cpyAbs), some (.f3 .cmpAbs), some (.f3 .decAbs), none]

/-- Row Dx of the matrix (R111). -/
def opcodeRowD : List (Option Form) :=
  [some (.f2 .bne), some (.f2 .cmpIndy), none, none,
   none, some (.f2 .cmpZpx), some (.f2 .decZpx), none,
   some (.f1 .cld), some (.f3 .cmpAbsy), none, none,
   none, some (.f3 .cmpAbsx), some (.f3 .decAbsx), none]

/-- Row Ex of the matrix (R111). -/
def opcodeRowE : List (Option Form) :=
  [some (.f2imm .cpxImm), some (.f2 .sbcIndx), none, none,
   some (.f2 .cpxZp), some (.f2 .sbcZp), some (.f2 .incZp), none,
   some (.f1 .inx), some (.f2imm .sbcImm), some (.f1 .nop), none,
   some (.f3 .cpxAbs), some (.f3 .sbcAbs), some (.f3 .incAbs), none]

/-- Row Fx of the matrix (R111). -/
def opcodeRowF : List (Option Form) :=
  [some (.f2 .beq), some (.f2 .sbcIndy), none, none,
   none, some (.f2 .sbcZpx), some (.f2 .incZpx), none,
   some (.f1 .sed), some (.f3 .sbcAbsy), none, none,
   none, some (.f3 .sbcAbsx), some (.f3 .incAbsx), none]

/-- The 256 entries: row = high nibble, column = low nibble of the opcode byte (R110, R111). -/
def opcodeMatrix : List (Option Form) :=
  opcodeRow0 ++ opcodeRow1 ++ opcodeRow2 ++ opcodeRow3 ++ opcodeRow4 ++ opcodeRow5 ++ opcodeRow6 ++ opcodeRow7
    ++ opcodeRow8 ++ opcodeRow9 ++ opcodeRowA ++ opcodeRowB ++ opcodeRowC ++ opcodeRowD ++ opcodeRowE ++ opcodeRowF

/-- The entry of an opcode byte, or none for the 105 undocumented bytes (R110, R114). -/
def formOf (op : Byte) : Option Form := opcodeMatrix.getD op.toNat none

/-! ## Decoding -/

/-- Why bytes are no instruction. -/
inductive DecodeError where
  /-- There is no byte to read an opcode from. -/
  | noOpcode
  /-- The opcode byte has no table entry (R114); the machine raises UnsupportedOpcode there (R340). Safe. -/
  | unsupportedOpcode (op : Byte)
  /-- Fewer operand bytes stand after the opcode byte than its mode needs (R101). -/
  | missingOperand (op : Byte)
  deriving DecidableEq, Repr

/-- Decode one instruction from the front of a list of bytes; the bytes after it are given back (R100). -/
def decode : List Byte → Except DecodeError (Instr × List Byte)
  | [] => .error .noOpcode
  | op :: rest =>
    match formOf op with
    | none => .error (.unsupportedOpcode op)
    | some (.f1 i) => .ok (i, rest)
    | some (.f2imm mk) | some (.f2 mk) =>
      match rest with
      | b1 :: rest => .ok (mk b1, rest)
      | [] => .error (.missingOperand op)
    | some (.f3 mk) =>
      match rest with
      | b1 :: b2 :: rest => .ok (mk (leWord b1 b2), rest)
      | _ => .error (.missingOperand op)

/-! ## Encoding -/

/-- The opcode byte of an instruction (R113). -/
def Instr.opcode : Instr → Byte
  | .ldaImm _ => 0xA9
  | .ldaZp _ => 0xA5
  | .ldaZpx _ => 0xB5
  | .ldaAbs _ => 0xAD
  | .ldaAbsx _ => 0xBD
  | .ldaAbsy _ => 0xB9
  | .ldaIndx _ => 0xA1
  | .ldaIndy _ => 0xB1
  | .ldxImm _ => 0xA2
  | .ldxZp _ => 0xA6
  | .ldxZpy _ => 0xB6
  | .ldxAbs _ => 0xAE
  | .ldxAbsy _ => 0xBE
  | .ldyImm _ => 0xA0
  | .ldyZp _ => 0xA4
  | .ldyZpx _ => 0xB4
  | .ldyAbs _ => 0xAC
  | .ldyAbsx _ => 0xBC
  | .staZp _ => 0x85
  | .staZpx _ => 0x95
  | .staAbs _ => 0x8D
  | .staAbsx _ => 0x9D
  | .staAbsy _ => 0x99
  | .staIndx _ => 0x81
  | .staIndy _ => 0x91
  | .stxZp _ => 0x86
  | .stxZpy _ => 0x96
  | .stxAbs _ => 0x8E
  | .styZp _ => 0x84
  | .styZpx _ => 0x94
  | .styAbs _ => 0x8C
  | .tax => 0xAA
  | .tay => 0xA8
  | .txa => 0x8A
  | .tya => 0x98
  | .tsx => 0xBA
  | .txs => 0x9A
  | .pha => 0x48
  | .php => 0x08
  | .pla => 0x68
  | .plp => 0x28
  | .andImm _ => 0x29
  | .andZp _ => 0x25
  | .andZpx _ => 0x35
  | .andAbs _ => 0x2D
  | .andAbsx _ => 0x3D
  | .andAbsy _ => 0x39
  | .andIndx _ => 0x21
  | .andIndy _ => 0x31
  | .oraImm _ => 0x09
  | .oraZp _ => 0x05
  | .oraZpx _ => 0x15
  | .oraAbs _ => 0x0D
  | .oraAbsx _ => 0x1D
  | .oraAbsy _ => 0x19
  | .oraIndx _ => 0x01
  | .oraIndy _ => 0x11
  | .eorImm _ => 0x49
  | .eorZp _ => 0x45
  | .eorZpx _ => 0x55
  | .eorAbs _ => 0x4D
  | .eorAbsx _ => 0x5D
  | .eorAbsy _ => 0x59
  | .eorIndx _ => 0x41
  | .eorIndy _ => 0x51
  | .bitZp _ => 0x24
  | .bitAbs _ => 0x2C
  | .adcImm _ => 0x69
  | .adcZp _ => 0x65
  | .adcZpx _ => 0x75
  | .adcAbs _ => 0x6D
  | .adcAbsx _ => 0x7D
  | .adcAbsy _ => 0x79
  | .adcIndx _ => 0x61
  | .adcIndy _ => 0x71
  | .sbcImm _ => 0xE9
  | .sbcZp _ => 0xE5
  | .sbcZpx _ => 0xF5
  | .sbcAbs _ => 0xED
  | .sbcAbsx _ => 0xFD
  | .sbcAbsy _ => 0xF9
  | .sbcIndx _ => 0xE1
  | .sbcIndy _ => 0xF1
  | .cmpImm _ => 0xC9
  | .cmpZp _ => 0xC5
  | .cmpZpx _ => 0xD5
  | .cmpAbs _ => 0xCD
  | .cmpAbsx _ => 0xDD
  | .cmpAbsy _ => 0xD9
  | .cmpIndx _ => 0xC1
  | .cmpIndy _ => 0xD1
  | .cpxImm _ => 0xE0
  | .cpxZp _ => 0xE4
  | .cpxAbs _ => 0xEC
  | .cpyImm _ => 0xC0
  | .cpyZp _ => 0xC4
  | .cpyAbs _ => 0xCC
  | .incZp _ => 0xE6
  | .incZpx _ => 0xF6
  | .incAbs _ => 0xEE
  | .incAbsx _ => 0xFE
  | .inx => 0xE8
  | .iny => 0xC8
  | .decZp _ => 0xC6
  | .decZpx _ => 0xD6
  | .decAbs _ => 0xCE
  | .decAbsx _ => 0xDE
  | .dex => 0xCA
  | .dey => 0x88
  | .aslAcc => 0x0A
  | .aslZp _ => 0x06
  | .aslZpx _ => 0x16
  | .aslAbs _ => 0x0E
  | .aslAbsx _ => 0x1E
  | .lsrAcc => 0x4A
  | .lsrZp _ => 0x46
  | .lsrZpx _ => 0x56
  | .lsrAbs _ => 0x4E
  | .lsrAbsx _ => 0x5E
  | .rolAcc => 0x2A
  | .rolZp _ => 0x26
  | .rolZpx _ => 0x36
  | .rolAbs _ => 0x2E
  | .rolAbsx _ => 0x3E
  | .rorAcc => 0x6A
  | .rorZp _ => 0x66
  | .rorZpx _ => 0x76
  | .rorAbs _ => 0x6E
  | .rorAbsx _ => 0x7E
  | .jmpAbs _ => 0x4C
  | .jmpInd _ => 0x6C
  | .jsr _ => 0x20
  | .rts => 0x60
  | .brk => 0x00
  | .rti => 0x40
  | .bcc _ => 0x90
  | .bcs _ => 0xB0
  | .beq _ => 0xF0
  | .bne _ => 0xD0
  | .bmi _ => 0x30
  | .bpl _ => 0x10
  | .bvc _ => 0x50
  | .bvs _ => 0x70
  | .clc => 0x18
  | .sec => 0x38
  | .cli => 0x58
  | .sei => 0x78
  | .clv => 0xB8
  | .cld => 0xD8
  | .sed => 0xF8
  | .nop => 0xEA

/-- The operand bytes of an instruction, in address order (R101, R103, R104). -/
def Instr.operandBytes : Instr → List Byte
  | .tax | .tay | .txa | .tya | .tsx | .txs | .pha | .php | .pla | .plp | .inx | .iny | .dex | .dey
  | .aslAcc | .lsrAcc | .rolAcc | .rorAcc | .rts | .brk | .rti | .clc | .sec | .cli | .sei | .clv | .cld
  | .sed | .nop => []
  | .ldaImm b | .ldaZp b | .ldaZpx b | .ldaIndx b | .ldaIndy b | .ldxImm b | .ldxZp b | .ldxZpy b
  | .ldyImm b | .ldyZp b | .ldyZpx b | .staZp b | .staZpx b | .staIndx b | .staIndy b | .stxZp b
  | .stxZpy b | .styZp b | .styZpx b | .andImm b | .andZp b | .andZpx b | .andIndx b | .andIndy b
  | .oraImm b | .oraZp b | .oraZpx b | .oraIndx b | .oraIndy b | .eorImm b | .eorZp b | .eorZpx b
  | .eorIndx b | .eorIndy b | .bitZp b | .adcImm b | .adcZp b | .adcZpx b | .adcIndx b | .adcIndy b
  | .sbcImm b | .sbcZp b | .sbcZpx b | .sbcIndx b | .sbcIndy b | .cmpImm b | .cmpZp b | .cmpZpx b
  | .cmpIndx b | .cmpIndy b | .cpxImm b | .cpxZp b | .cpyImm b | .cpyZp b | .incZp b | .incZpx b
  | .decZp b | .decZpx b | .aslZp b | .aslZpx b | .lsrZp b | .lsrZpx b | .rolZp b | .rolZpx b | .rorZp b
  | .rorZpx b | .bcc b | .bcs b | .beq b | .bne b | .bmi b | .bpl b | .bvc b | .bvs b => [b]
  | .ldaAbs w | .ldaAbsx w | .ldaAbsy w | .ldxAbs w | .ldxAbsy w | .ldyAbs w | .ldyAbsx w | .staAbs w
  | .staAbsx w | .staAbsy w | .stxAbs w | .styAbs w | .andAbs w | .andAbsx w | .andAbsy w | .oraAbs w
  | .oraAbsx w | .oraAbsy w | .eorAbs w | .eorAbsx w | .eorAbsy w | .bitAbs w | .adcAbs w | .adcAbsx w
  | .adcAbsy w | .sbcAbs w | .sbcAbsx w | .sbcAbsy w | .cmpAbs w | .cmpAbsx w | .cmpAbsy w | .cpxAbs w
  | .cpyAbs w | .incAbs w | .incAbsx w | .decAbs w | .decAbsx w | .aslAbs w | .aslAbsx w | .lsrAbs w
  | .lsrAbsx w | .rolAbs w | .rolAbsx w | .rorAbs w | .rorAbsx w | .jmpAbs w | .jmpInd w | .jsr w => [loByte w, hiByte w]

/-- The bytes of an instruction: the opcode byte, then the operand bytes (R100). -/
def encode (i : Instr) : List Byte := i.opcode :: i.operandBytes

/-! ## The opcode-table numbering -/

/-- Byte k of an instruction whose bits are `w`, bit 0 the least significant bit of the first byte; every bit from `nbits` up
is 0. -/
def tableByte (nbits w k : Nat) : Byte := BitVec.ofNat 8 (w % 2 ^ nbits / 256 ^ k)

/-- The bytes of the longest instruction (3, R100) with bits `w`, the first at the lowest address. -/
def tableBytes (nbits w : Nat) : List Byte := [tableByte nbits w 0, tableByte nbits w 1, tableByte nbits w 2]

/-- The instruction the decoder reads from an instruction whose bits are `w`, numbered as spec/opcode_table.json numbers
them. -/
def decodeTableWord (nbits w : Nat) : Option Instr :=
  match decode (tableBytes nbits w) with
  | .ok (i, _) => some i
  | .error _ => none

/-! ## The assembler notation (R116, R117) -/

/-- The instruction an entry of the matrix stands for when its operand bytes are 0. -/
def Form.sample : Form → Instr
  | .f1 i => i
  | .f2imm mk | .f2 mk => mk 0
  | .f3 mk => mk 0

/-- The opcode byte of an operation in a mode, found in the matrix (R110, R111). -/
def opcodeFor (m : Mnemonic) (md : Mode) : Option Byte :=
  ((List.range 256).find? fun k =>
    match formOf (BitVec.ofNat 8 k) with
    | none => false
    | some f => f.sample.mnemonic == m && f.sample.mode == md).map (BitVec.ofNat 8)

/-- The operand bytes of an assembler line (R116): a label becomes its distance mod 256. -/
def AsmLine.operandBytes (l : AsmLine) : List Byte :=
  match l.operand with
  | .none | .acc => []
  | .imm b | .zp b | .zpx b | .zpy b | .indx b | .indy b => [b]
  | .label target => [loByte (l.distance target)]
  | .abs w | .absx w | .absy w | .ind w => [loByte w, hiByte w]

/-- The bytes an assembler line assembles to (R116); none where the line is not well formed. -/
def AsmLine.assemble (l : AsmLine) : Option (List Byte) :=
  if l.wellFormed then (opcodeFor l.mnemonic l.operand.mode).map fun op => op :: l.operandBytes else none

end Sys2Proof
end

