-- ==== Sys2Proof/Machine/State.lean ====
section
/-!
DEFINITION. The state of the machine (R20 to R55 of spec/10_state.md) as plain data, the faults of R340 to R342 and the
refusals, and the state right after `powerUp()` (R57, R323, R360).
-/
namespace Sys2Proof.Machine

/-- The direction of a bus access, as InvalidRegisterAccess reports it (R341). -/
inductive Direction where
  | read
  | write
  deriving DecidableEq, Repr

/-- The fault records of R34, and the reasons `step` has no successor (R324). A step that raises one stores it in
`State.fault` and answers a next state (R343, log entry 1); `step` on a state that holds one answers that fault. -/
inductive Fault where
  /-- Raised by an opcode fetch of a byte without table entry (R340): the address it was fetched from, and the byte. The
  spec's own fault: safe. -/
  | unsupportedOpcode (address : Word) (byte : Byte)
  /-- Raised by any CPU bus access, a DMA source read included, that hits a PPU register in a direction it does not have, or
  reads 0x4014 (R341): the direction and the canonical address. The spec's own fault: safe. -/
  | invalidRegisterAccess (direction : Direction) (address : Word)
  /-- Reported by the host query `Rgb` on an index above 63 (R309, R342), to the caller only: no step stores it. Safe. -/
  | paletteIndexOutOfRange (index : Nat)
  deriving DecidableEq, Repr

/-- Why the model declines. -/
inductive Refusal where
  /-- An arm of `exec` whose instruction has no meaning yet; no arm of this model uses it. Safe. -/
  | notModelled (mnemonic : String)
  /-- Raised by the host query `PaletteSelect` on an address that is no nametable tile byte (R308, U31 of
  spec/93_implementation_defined.md: "refuse"). Safe: it concerns no step. -/
  | notANametableTile (address : Nat)
  deriving DecidableEq, Repr

/-- The status flags (R26): eight 1-bit fields. -/
structure Flags where
  n : Bool
  v : Bool
  u : Bool
  b : Bool
  d : Bool
  i : Bool
  z : Bool
  c : Bool
  deriving DecidableEq, Repr

/-- The picture unit (R38 to R54). `fb` holds entry (row s, column x) at index 256 * s + x (log entry 9). -/
structure Ppu where
  /-- PPUCTRL, R38. -/
  ctrl : Byte
  /-- PPUMASK, R39. -/
  mask : Byte
  /-- PPUSTATUS bit 7, R40. -/
  vblank : Bool
  /-- PPUSTATUS bit 6, R40. -/
  sprite0Hit : Bool
  /-- PPUSTATUS bit 5, R40. -/
  spriteOverflow : Bool
  /-- R41. -/
  oamAddr : Byte
  /-- The current VRAM address, R42. -/
  v : BitVec 15
  /-- The temporary address, R43. -/
  t : BitVec 15
  /-- R44. -/
  fineX : BitVec 3
  /-- The write toggle, R45: false means the next write to $2005 or $2006 is a first write. -/
  w : Bool
  /-- R46, in 0..261. -/
  scanline : Nat
  /-- R46, in 0..340. -/
  cycle : Nat
  /-- R47, 256 bytes. -/
  oam : Mem 8
  /-- R48, 32 bytes; no rule reads or writes it. -/
  secondaryOam : Mem 8
  /-- R49, 2048 bytes. -/
  nt : Mem 8
  /-- R50, 32 bytes. -/
  pal : Mem 8
  /-- R51, 8192 bytes. -/
  chr : Mem 8
  /-- The fetch latches, R52. -/
  ntLatch : Byte
  atLatch : Byte
  ptLoLatch : Byte
  ptHiLatch : Byte
  /-- The 1-bit attribute latches, R52. -/
  atBitLo : Bool
  atBitHi : Bool
  /-- The background shift registers, R53. -/
  bgLo : BitVec 16
  bgHi : BitVec 16
  /-- The attribute shift registers, R53. -/
  atLo : Byte
  atHi : Byte
  /-- The frame buffer, R54: 240 rows of 256 colour indices. -/
  fb : Mem 6
  deriving DecidableEq, Repr

/-- The whole machine (R20). -/
structure State where
  /-- R21. -/
  a : Byte
  /-- R22. -/
  x : Byte
  /-- R23. -/
  y : Byte
  /-- R24: the stack address is 0x0100 + SP. -/
  sp : Byte
  /-- R25. -/
  pc : Word
  /-- R26, R27. -/
  p : Flags
  /-- R32. -/
  nmiPending : Bool
  /-- R33. -/
  cyclesRemaining : Nat
  /-- R34. -/
  fault : Option Fault
  /-- R36, 2048 bytes. -/
  ram : Mem 8
  /-- R37, 65536 bytes. -/
  ext : Mem 8
  /-- R38 to R54. -/
  ppu : Ppu
  /-- R55. -/
  frameComplete : Bool
  /-- The model's own: how many draws of the sprite status oracle have been made (log entry 7). -/
  spriteDraws : Nat
  /-- The launch parameters of R9; no step changes them (log entry 3). -/
  launch : Launch
  deriving DecidableEq, Repr

/-- The PPU right after `Clear` (R57, R323): every register, latch and shifter 0, the position (0, 0), memories all 0 but
`CHR`, which is the launch image. -/
def Ppu.cleared (chr0 : Mem 8) : Ppu where
  ctrl := 0
  mask := 0
  vblank := false
  sprite0Hit := false
  spriteOverflow := false
  oamAddr := 0
  v := 0
  t := 0
  fineX := 0
  w := false
  scanline := 0
  cycle := 0
  oam := []
  secondaryOam := []
  nt := []
  pal := []
  chr := chr0
  ntLatch := 0
  atLatch := 0
  ptLoLatch := 0
  ptHiLatch := 0
  atBitLo := false
  atBitHi := false
  bgLo := 0
  bgHi := 0
  atLo := 0
  atHi := 0
  fb := []

/-- P = 0x24 (R332): I = 1, U = 1, all other flags 0. -/
def Flags.atReset : Flags where
  n := false
  v := false
  u := true
  b := false
  d := false
  i := true
  z := false
  c := false

/-- The machine right after `powerUp()` with the launch parameters of `Launch.standard` (R57, R323, R360). The reset vector of
the all-zero launch image is 0x0000 (R362). No program is in it (log entries 4 and 6). -/
def State.reset : State where
  a := 0
  x := 0
  y := 0
  sp := 0xFD
  pc := 0x0000
  p := Flags.atReset
  nmiPending := false
  cyclesRemaining := Launch.standard.resetCycles
  fault := none
  ram := []
  ext := Launch.standard.ext0
  ppu := Ppu.cleared Launch.standard.chr0
  frameComplete := false
  spriteDraws := 0
  launch := Launch.standard

end Sys2Proof.Machine
end

