-- ==== Sys2Proof/Machine/Flags.lean ====
section
/-!
DEFINITION. The status byte and every flag computation: the packing of R27 and R28 of spec/10_state.md, the bytes pushed and
pulled (R31), SetNZ (R30), add, subtract and compare (R184, R185, R187 of spec/43_logic_arith.md), and the shifts and
rotates (R207 to R210 of spec/44_incdec_shift.md).
-/
namespace Sys2Proof.Machine

/-- `to_byte` (R27, R28): N V U B D I Z C from bit 7 to bit 0. -/
def Flags.toByte (p : Flags) : Byte :=
  BitVec.ofBool p.n ++ BitVec.ofBool p.v ++ BitVec.ofBool p.u ++ BitVec.ofBool p.b ++ BitVec.ofBool p.d
    ++ BitVec.ofBool p.i ++ BitVec.ofBool p.z ++ BitVec.ofBool p.c

/-- `from_byte` (R27, R28). -/
def Flags.ofByte (d : Byte) : Flags where
  n := d.getLsbD 7
  v := d.getLsbD 6
  u := d.getLsbD 5
  b := d.getLsbD 4
  d := d.getLsbD 3
  i := d.getLsbD 2
  z := d.getLsbD 1
  c := d.getLsbD 0

/-- The copy of P that PHP and BRK push: B = 1 and U = 1 (R31, R173, R223). -/
def Flags.pushedBySoftware (p : Flags) : Byte := p.toByte ||| 0x30

/-- The copy of P that NMI entry pushes: B = 0 and U = 1 (R31, R335). -/
def Flags.pushedByNmi (p : Flags) : Byte := (p.toByte &&& 0xEF) ||| 0x20

/-- P as PLP and RTI load it from a pulled byte: B forced to 0, U forced to 1 (R31, R175, R224). -/
def Flags.pulled (d : Byte) : Flags := Flags.ofByte ((d &&& 0xCF) ||| 0x20)

/-- SetNZ (R30). -/
def Flags.setNZ (p : Flags) (r : Byte) : Flags := { p with n := r.getLsbD 7, z := r == 0 }

/-- The carry as a number. -/
def carryNat (c : Bool) : Nat := if c then 1 else 0

/-- The sum of ADC as a natural number (R184). -/
def adcSum (a m : Byte) (c : Bool) : Nat := a.toNat + m.toNat + carryNat c

/-- The 8-bit result of ADC (R184). -/
def adcResult (a m : Byte) (c : Bool) : Byte := BitVec.ofNat 8 (adcSum a m c)

/-- The carry out of ADC (R184). -/
def adcCarry (a m : Byte) (c : Bool) : Bool := decide (255 < adcSum a m c)

/-- The overflow of ADC: both inputs have the sign the result lacks (R184). -/
def adcOverflow (a m : Byte) (c : Bool) : Bool :=
  ((a ^^^ adcResult a m c) &&& (m ^^^ adcResult a m c) &&& 0x80) != 0

/-- The flags ADC leaves (R184). -/
def Flags.afterAdc (p : Flags) (a m : Byte) : Flags :=
  { p with c := adcCarry a m p.c, v := adcOverflow a m p.c }.setNZ (adcResult a m p.c)

/-- The operand SBC adds: the one's complement of m (R185). -/
def sbcOperand (m : Byte) : Byte := m ^^^ 0xFF

/-- The flags Compare leaves (R187): C is the unsigned comparison, Z equality, N bit 7 of the difference. -/
def Flags.afterCompare (p : Flags) (reg m : Byte) : Flags :=
  { p with c := decide (m.toNat ≤ reg.toNat), z := reg == m, n := (reg - m).getLsbD 7 }

/-- The flags BIT leaves (R183): Z from `A & m`, N and V from the operand. -/
def Flags.afterBit (p : Flags) (a m : Byte) : Flags :=
  { p with z := (a &&& m) == 0, n := m.getLsbD 7, v := m.getLsbD 6 }

/-- A shift or rotate of one bit: the operand and the old carry give the result and the new carry. -/
structure Shifted where
  result : Byte
  carry : Bool
  deriving DecidableEq, Repr

/-- ASL (R207). -/
def shiftAsl (m : Byte) (_ : Bool) : Shifted := ⟨m <<< 1, m.getLsbD 7⟩

/-- LSR (R208). -/
def shiftLsr (m : Byte) (_ : Bool) : Shifted := ⟨m >>> 1, m.getLsbD 0⟩

/-- ROL (R209): the old carry enters bit 0. -/
def shiftRol (m : Byte) (c : Bool) : Shifted := ⟨(m <<< 1) ||| BitVec.setWidth 8 (BitVec.ofBool c), m.getLsbD 7⟩

/-- ROR (R210): the old carry enters bit 7. -/
def shiftRor (m : Byte) (c : Bool) : Shifted :=
  ⟨(m >>> 1) ||| (BitVec.setWidth 8 (BitVec.ofBool c) <<< 7), m.getLsbD 0⟩

end Sys2Proof.Machine
end

