-- ==== Sys2Proof/Machine/Memory.lean ====
section
/-!
DEFINITION. One byte store: reading, writing and the canonical form of `Mem`. Every memory of the machine (R36, R37, R47 to
R51, R54 of spec/10_state.md) is held this way; an index that is not listed reads as 0, which is what R57 zero-fills.
-/
namespace Sys2Proof.Machine

/-- The entry at an index (0 when not listed). -/
def Mem.read {w : Nat} (m : Mem w) (a : Nat) : BitVec w :=
  match m with
  | [] => 0
  | (k, v) :: rest => if k = a then v else Mem.read rest a

/-- Put an entry before the first one with a larger index. -/
def Mem.insert {w : Nat} (m : Mem w) (a : Nat) (d : BitVec w) : Mem w :=
  match m with
  | [] => [(a, d)]
  | (k, v) :: rest => if a < k then (a, d) :: (k, v) :: rest else (k, v) :: Mem.insert rest a d

/-- Write an entry, keeping the canonical form: writing 0 removes the entry. -/
def Mem.write {w : Nat} (m : Mem w) (a : Nat) (d : BitVec w) : Mem w :=
  let rest := m.filter fun cell => cell.1 != a
  if d = 0 then rest else Mem.insert rest a d

/-- Indices strictly rising from `lo`, no entry 0. -/
def Mem.risingFrom {w : Nat} (lo : Nat) (m : Mem w) : Bool :=
  match m with
  | [] => true
  | (k, v) :: rest => decide (lo ≤ k) && v != 0 && Mem.risingFrom (k + 1) rest

/-- The canonical form of a memory of `size` entries: indices strictly rising and below `size`, no entry 0. -/
def Mem.wf {w : Nat} (size : Nat) (m : Mem w) : Bool :=
  Mem.risingFrom 0 m && m.all fun cell => decide (cell.1 < size)

end Sys2Proof.Machine
end

