-- ==== Sys2Proof/Machine/PpuMemory.lean ====
section
/-!
DEFINITION. The fields of PPUCTRL and PPUMASK (R38, R39 of spec/10_state.md) and the 14-bit PPU address space (R80 to R86 of
spec/20_memory.md). A 14-bit address type is the reduction mod 0x4000 of R81.
-/
namespace Sys2Proof.Machine

/-! ## Register fields -/

/-- PPUCTRL bits 1:0 (R38). -/
def Ppu.nametable (p : Ppu) : BitVec 2 := p.ctrl.extractLsb' 0 2

/-- PPUCTRL bit 2 (R38): `v` advances by 32 instead of 1. -/
def Ppu.increment (p : Ppu) : Bool := p.ctrl.getLsbD 2

/-- PPUCTRL bit 3 (R38); no rule reads it (R305). -/
def Ppu.spriteTable (p : Ppu) : Bool := p.ctrl.getLsbD 3

/-- PPUCTRL bit 4 (R38). -/
def Ppu.bgTable (p : Ppu) : Bool := p.ctrl.getLsbD 4

/-- PPUCTRL bit 5 (R38); no rule reads it (R305). -/
def Ppu.spriteSize (p : Ppu) : Bool := p.ctrl.getLsbD 5

/-- PPUCTRL bit 6 (R38); stored only. -/
def Ppu.masterSlave (p : Ppu) : Bool := p.ctrl.getLsbD 6

/-- PPUCTRL bit 7 (R38). -/
def Ppu.nmiEnable (p : Ppu) : Bool := p.ctrl.getLsbD 7

/-- PPUMASK bit 0 (R39); no rule reads it. -/
def Ppu.greyscale (p : Ppu) : Bool := p.mask.getLsbD 0

/-- PPUMASK bit 1 (R39); no rule reads it. -/
def Ppu.showBgLeft (p : Ppu) : Bool := p.mask.getLsbD 1

/-- PPUMASK bit 2 (R39); no rule reads it. -/
def Ppu.showSpritesLeft (p : Ppu) : Bool := p.mask.getLsbD 2

/-- PPUMASK bit 3 (R39). -/
def Ppu.bgEnable (p : Ppu) : Bool := p.mask.getLsbD 3

/-- PPUMASK bit 4 (R39). -/
def Ppu.spriteEnable (p : Ppu) : Bool := p.mask.getLsbD 4

/-- PPUMASK bits 7:5 (R39); no rule reads them. -/
def Ppu.emphasis (p : Ppu) : BitVec 3 := p.mask.extractLsb' 5 3

/-! ## PPU address space -/

/-- One byte of the PPU's storage (R81). -/
inductive VramCell where
  | chr (i : Nat)
  | nt (i : Nat)
  | pal (i : Nat)
  deriving DecidableEq, Repr

/-- NtIndex (R82), for a PPU address in 0x2000..0x3EFF. -/
def ntIndex (m : Mirroring) (a : Nat) : Nat :=
  let r := (a - 0x2000) % 0x1000
  match m with
  | .vertical => r / 0x400 % 2 * 0x400 + r % 0x400
  | .horizontal => r / 0x400 / 2 * 0x400 + r % 0x400

/-- The storage a PPU address names (R81): pattern tables, nametables and their mirror, palette and its mirror (R83). -/
def vramCell (m : Mirroring) (a : BitVec 14) : VramCell :=
  if a.toNat < 0x2000 then .chr a.toNat
  else if a.toNat < 0x3F00 then .nt (ntIndex m a.toNat)
  else .pal (a.toNat % 0x20)

/-- The byte a piece of PPU storage holds. -/
def Ppu.readCell (p : Ppu) : VramCell → Byte
  | .chr i => Mem.read p.chr i
  | .nt i => Mem.read p.nt i
  | .pal i => Mem.read p.pal i

/-- Store a byte in a piece of PPU storage. -/
def Ppu.writeCell (p : Ppu) (c : VramCell) (d : Byte) : Ppu :=
  match c with
  | .chr i => { p with chr := Mem.write p.chr i d }
  | .nt i => { p with nt := Mem.write p.nt i d }
  | .pal i => { p with pal := Mem.write p.pal i d }

/-- VramRead (R84). -/
def vramRead (m : Mirroring) (p : Ppu) (a : BitVec 14) : Byte := p.readCell (vramCell m a)

/-- VramWrite (R85). -/
def vramWrite (m : Mirroring) (p : Ppu) (a : BitVec 14) (d : Byte) : Ppu := p.writeCell (vramCell m a) d

end Sys2Proof.Machine
end

