-- ==== Sys2Proof/Machine/PpuRegisters.lean ====
section
/-!
DEFINITION. The PPU register window as the CPU sees it (R250 to R263 of spec/50_ppu_registers.md): what a read or a write of
each of the eight registers does. Each is one function of the PPU's own state.
-/
namespace Sys2Proof.Machine

/-- The byte a read of $2002 returns (R254): vblank, sprite-0 hit, sprite overflow in bits 7, 6, 5; bits 4:0 are 0. -/
def Ppu.statusByte (p : Ppu) : Byte :=
  BitVec.ofBool p.vblank ++ BitVec.ofBool p.sprite0Hit ++ BitVec.ofBool p.spriteOverflow ++ (0 : BitVec 5)

/-- What a read of $2002 leaves (R254): vblank and the write toggle cleared. -/
def Ppu.afterStatusRead (p : Ppu) : Ppu := { p with vblank := false, w := false }

/-- The byte a read of $2004 returns (R255). -/
def Ppu.oamData (p : Ppu) : Byte := Mem.read p.oam p.oamAddr.toNat

/-- The PPU address `v` designates for $2007: `v[13:0]` (R42, R256). -/
def Ppu.dataAddress (p : Ppu) : BitVec 14 := p.v.setWidth 14

/-- The advance of `v` at a $2007 access, mod 32768 (R256, R263). -/
def Ppu.advanceV (p : Ppu) : Ppu := { p with v := p.v + (if p.increment then 32 else 1) }

/-- The byte a read of $2007 returns (R256). -/
def Ppu.vramData (m : Mirroring) (p : Ppu) : Byte := vramRead m p p.dataAddress

/-- What a read of $2007 leaves (R256): `v` advances only when PPUDATA_READ_INCREMENT is true. -/
def Ppu.afterDataRead (readIncrement : Bool) (p : Ppu) : Ppu := if readIncrement then p.advanceV else p

/-- WriteCtrl (R257): `t[11:10] <- d[1:0]`. -/
def Ppu.writeCtrl (p : Ppu) (d : Byte) : Ppu :=
  { p with ctrl := d, t := (p.t &&& 0x73FF) ||| ((d.extractLsb' 0 2).setWidth 15 <<< 10) }

/-- WriteMask (R258). -/
def Ppu.writeMask (p : Ppu) (d : Byte) : Ppu := { p with mask := d }

/-- WriteOamAddr (R259). -/
def Ppu.writeOamAddr (p : Ppu) (d : Byte) : Ppu := { p with oamAddr := d }

/-- WriteOamData (R260): the byte goes to the old address, which then advances mod 256. -/
def Ppu.writeOamData (p : Ppu) (d : Byte) : Ppu :=
  { p with oam := Mem.write p.oam p.oamAddr.toNat d, oamAddr := p.oamAddr + 1 }

/-- WriteScroll (R261): the first write sets coarse X and fine X, the second fine Y and coarse Y. -/
def Ppu.writeScroll (p : Ppu) (d : Byte) : Ppu :=
  if p.w then
    { p with
      t := (p.t &&& 0x0C1F) ||| ((d.extractLsb' 0 3).setWidth 15 <<< 12) ||| ((d.extractLsb' 3 5).setWidth 15 <<< 5)
      w := false }
  else
    { p with
      t := (p.t &&& 0x7FE0) ||| (d.extractLsb' 3 5).setWidth 15
      fineX := d.extractLsb' 0 3
      w := true }

/-- WriteAddr (R262): the first write sets `t[13:8]` and clears `t[14]`, the second sets `t[7:0]` and copies `t` to `v`. -/
def Ppu.writeAddr (p : Ppu) (d : Byte) : Ppu :=
  if p.w then
    { p with
      t := (p.t &&& 0x7F00) ||| d.setWidth 15
      v := (p.t &&& 0x7F00) ||| d.setWidth 15
      w := false }
  else
    { p with
      t := (p.t &&& 0x00FF) ||| ((d.extractLsb' 0 6).setWidth 15 <<< 8)
      w := true }

/-- WriteData (R263): store at `v[13:0]`, then advance `v`. -/
def Ppu.writeData (m : Mirroring) (p : Ppu) (d : Byte) : Ppu := (vramWrite m p p.dataAddress d).advanceV

/-- The canonical address of a register (R250): 0x2000 + index. -/
def registerAddress (index : BitVec 3) : Word := 0x2000 + index.setWidth 16

/-- PpuRegRead (R250, R252): the byte and the PPU after it, or none where the register has no read. -/
def ppuRegRead (l : Launch) (index : BitVec 3) (p : Ppu) : Option (Byte × Ppu) :=
  match index.toNat with
  | 2 => some (p.statusByte, p.afterStatusRead)
  | 4 => some (p.oamData, p)
  | 7 => some (p.vramData l.mirroring, p.afterDataRead l.ppudataReadIncrement)
  | _ => none

/-- PpuRegWrite (R251, R252): the PPU after it, or none where the register has no write. -/
def ppuRegWrite (l : Launch) (index : BitVec 3) (d : Byte) (p : Ppu) : Option Ppu :=
  match index.toNat with
  | 0 => some (p.writeCtrl d)
  | 1 => some (p.writeMask d)
  | 3 => some (p.writeOamAddr d)
  | 4 => some (p.writeOamData d)
  | 5 => some (p.writeScroll d)
  | 6 => some (p.writeAddr d)
  | 7 => some (p.writeData l.mirroring d)
  | _ => none

end Sys2Proof.Machine
end

