-- ==== Sys2Proof/Machine/Ops.lean ====
section
/-!
DEFINITION. The shared operations over registers and the CPU bus: the result of a micro-operation that may raise, the address
decoder and MemRead, MemWrite, OamDma (R61 to R69 of spec/20_memory.md, R264 of spec/50_ppu_registers.md), the stack
(R170, R171), taking a trap and returning from one (R223, R224, R335), and the cost of an instruction (R131).
-/
namespace Sys2Proof.Machine

/-! ## Micro-operations -/

/-- What a micro-operation leaves: a value and a state, or a raised fault and the state as of the last completed
micro-operation (R12, R343). -/
inductive Res (α : Type) where
  | ok (r : α) (s : State)
  | raised (f : Fault) (s : State)
  deriving DecidableEq, Repr

/-- Go on with the next micro-operation unless a fault was raised (R12: "A raise ends the step"). -/
def Res.bind {α β : Type} (r : Res α) (next : α → State → Res β) : Res β :=
  match r with
  | .ok v s => next v s
  | .raised f s => .raised f s

/-- The end of an instruction: where a fault was raised, it is recorded in the state (R343; log entry 1). -/
def Res.outcome (r : Res Unit) : Host.Outcome State Fault Refusal :=
  match r with
  | .ok _ s => .next s
  | .raised f s => .next { s with fault := some f }

/-! ## Registers -/

/-- The registers an operation names: A, X, Y (R21 to R23). -/
inductive Reg where
  | a
  | x
  | y
  deriving DecidableEq, Repr

/-- Read a register. -/
def State.reg (s : State) : Reg → Byte
  | .a => s.a
  | .x => s.x
  | .y => s.y

/-- Write a register. -/
def State.setReg (s : State) (r : Reg) (d : Byte) : State :=
  match r with
  | .a => { s with a := d }
  | .x => { s with x := d }
  | .y => { s with y := d }

/-- SetNZ on the machine's flags (R30). -/
def State.setNZ (s : State) (r : Byte) : State := { s with p := s.p.setNZ r }

/-- Write the carry flag. -/
def State.setCarry (s : State) (c : Bool) : State := { s with p := { s.p with c := c } }

/-! ## The CPU bus -/

/-- What a CPU address selects (R61). -/
inductive Target where
  | ram (i : Nat)
  | ppu (index : BitVec 3)
  | oamDma
  | ext (i : Nat)
  deriving DecidableEq, Repr

/-- The address decoder, first matching row (R61 to R65). -/
def busTarget (ramMirrorLast a : Word) : Target :=
  if a.toNat ≤ ramMirrorLast.toNat then .ram (a.toNat % 0x800)
  else if 0x2000 ≤ a.toNat ∧ a.toNat ≤ 0x3FFF then .ppu (a.extractLsb' 0 3)
  else if a = 0x4014 then .oamDma
  else .ext a.toNat

/-- What an address selects on this machine. -/
def State.target (s : State) (a : Word) : Target := busTarget s.launch.ramMirrorLast a

/-- MemRead (R68). -/
def memRead (a : Word) (s : State) : Res Byte :=
  match s.target a with
  | .ram i => .ok (Mem.read s.ram i) s
  | .ppu index =>
    match ppuRegRead s.launch index s.ppu with
    | some (d, p) => .ok d { s with ppu := p }
    | none => .raised (.invalidRegisterAccess .read (registerAddress index)) s
  | .oamDma => .raised (.invalidRegisterAccess .read 0x4014) s
  | .ext i => .ok (Mem.read s.ext i) s

/-- The copies `i = first, first + 1, ...` of a DMA, `count` of them (R264): MemRead of `page * 256 + i`, then the byte to
`OAM[(oam_addr + i) mod 256]`. -/
def oamCopy (page : Byte) (first count : Nat) (s : State) : Res Unit :=
  match count with
  | 0 => .ok () s
  | n + 1 =>
    (memRead (leWord (BitVec.ofNat 8 first) page) s).bind fun d s =>
      oamCopy page (first + 1) n
        { s with ppu := { s.ppu with oam := Mem.write s.ppu.oam (s.ppu.oamAddr + BitVec.ofNat 8 first).toNat d } }

/-- OamDma (R264, R266): 256 copies, then the stall is added to the count of owed cycle-steps. -/
def oamDma (page : Byte) (s : State) : Res Unit :=
  (oamCopy page 0 256 s).bind fun _ s =>
    .ok () { s with cyclesRemaining := s.cyclesRemaining + s.launch.dmaStallCycles }

/-- MemWrite (R69). -/
def memWrite (a : Word) (d : Byte) (s : State) : Res Unit :=
  match s.target a with
  | .ram i => .ok () { s with ram := Mem.write s.ram i d }
  | .ppu index =>
    match ppuRegWrite s.launch index d s.ppu with
    | some p => .ok () { s with ppu := p }
    | none => .raised (.invalidRegisterAccess .write (registerAddress index)) s
  | .oamDma => oamDma d s
  | .ext i => .ok () { s with ext := Mem.write s.ext i d }

/-- MemRead16 (R12): low byte from `a`, then high byte from `a + 1` mod 65536. -/
def memRead16 (a : Word) (s : State) : Res Word :=
  (memRead a s).bind fun lo s => (memRead (a + 1) s).bind fun hi s => .ok (leWord lo hi) s

/-- The byte an address holds in plain storage (`RAM` or `EXT`), seen without touching the machine; none where the address is
a PPU register or 0x4014. -/
def State.peek (s : State) (a : Word) : Option Byte :=
  match s.target a with
  | .ram i => some (Mem.read s.ram i)
  | .ext i => some (Mem.read s.ext i)
  | .ppu _ | .oamDma => none

/-! ## The stack (R24, R170, R171) -/

/-- The stack address 0x0100 + SP. -/
def stackAddress (sp : Byte) : Word := leWord sp 0x01

/-- Push (R170): store, then decrement. -/
def push (d : Byte) (s : State) : Res Unit :=
  (memWrite (stackAddress s.sp) d s).bind fun _ s => .ok () { s with sp := s.sp - 1 }

/-- Push16 (R171): high byte first. -/
def push16 (w : Word) (s : State) : Res Unit :=
  (push (hiByte w) s).bind fun _ s => push (loByte w) s

/-- Pull (R171): increment, then read. -/
def pull (s : State) : Res Byte :=
  let s := { s with sp := s.sp + 1 }
  memRead (stackAddress s.sp) s

/-- Pull16 (R171): low byte first. -/
def pull16 (s : State) : Res Word :=
  (pull s).bind fun lo s => (pull s).bind fun hi s => .ok (leWord lo hi) s

/-! ## Traps (R330, R347) -/

/-- The NMI vector (R339). -/
def nmiVector : Word := 0xFFFA

/-- The reset vector (R339). -/
def resetVector : Word := 0xFFFC

/-- The BRK vector (R339). -/
def brkVector : Word := 0xFFFE

/-- Taking a trap, shared by BRK (R223) and NMI entry (R335): push the return address, push a copy of P, set I, load PC from
the vector. -/
def enterTrap (returnTo : Word) (pushedP : Byte) (vector : Word) (s : State) : Res Unit :=
  (push16 returnTo s).bind fun _ s =>
    (push pushedP s).bind fun _ s =>
      (memRead16 vector { s with p := { s.p with i := true } }).bind fun target s => .ok () { s with pc := target }

/-- NmiEntry (R335). -/
def nmiEntry (s : State) : Res Unit :=
  (enterTrap s.pc s.p.pushedByNmi nmiVector s).bind fun _ s => .ok () { s with nmiPending := false }

/-- Returning from a trap (R224, R346): P first, then PC. -/
def returnFromTrap (s : State) : Res Unit :=
  (pull s).bind fun d s =>
    (pull16 { s with p := Flags.pulled d }).bind fun target s => .ok () { s with pc := target }

/-! ## The cost of an instruction (R113, R131) -/

/-- Base cycle counts of loads, stores and transfers (R113), the first flag `true` where R113 writes `+`. -/
def cyclesLoadStoreTransfer : List (Byte × CycleRow) :=
  [(0xA9, ⟨2, false, false⟩), (0xA5, ⟨3, false, false⟩), (0xB5, ⟨4, false, false⟩), (0xAD, ⟨4, false, false⟩)]  -- LDA
  ++ [(0xBD, ⟨4, true, false⟩), (0xB9, ⟨4, true, false⟩), (0xA1, ⟨6, false, false⟩), (0xB1, ⟨5, true, false⟩)]
  ++ [(0xA2, ⟨2, false, false⟩), (0xA6, ⟨3, false, false⟩), (0xB6, ⟨4, false, false⟩), (0xAE, ⟨4, false, false⟩)]  -- LDX
  ++ [(0xBE, ⟨4, true, false⟩)]
  ++ [(0xA0, ⟨2, false, false⟩), (0xA4, ⟨3, false, false⟩), (0xB4, ⟨4, false, false⟩), (0xAC, ⟨4, false, false⟩)]  -- LDY
  ++ [(0xBC, ⟨4, true, false⟩)]
  ++ [(0x85, ⟨3, false, false⟩), (0x95, ⟨4, false, false⟩), (0x8D, ⟨4, false, false⟩), (0x9D, ⟨5, false, false⟩)]  -- STA
  ++ [(0x99, ⟨5, false, false⟩), (0x81, ⟨6, false, false⟩), (0x91, ⟨6, false, false⟩)]
  ++ [(0x86, ⟨3, false, false⟩), (0x96, ⟨4, false, false⟩), (0x8E, ⟨4, false, false⟩)]  -- STX
  ++ [(0x84, ⟨3, false, false⟩), (0x94, ⟨4, false, false⟩), (0x8C, ⟨4, false, false⟩)]  -- STY
  ++ [(0xAA, ⟨2, false, false⟩), (0xA8, ⟨2, false, false⟩), (0x8A, ⟨2, false, false⟩), (0x98, ⟨2, false, false⟩)]  -- TAX TAY TXA TYA
  ++ [(0xBA, ⟨2, false, false⟩), (0x9A, ⟨2, false, false⟩)]  -- TSX TXS

/-- Base cycle counts of the stack instructions, logic, arithmetic and compares (R113). -/
def cyclesStackLogicArith : List (Byte × CycleRow) :=
  [(0x48, ⟨3, false, false⟩), (0x08, ⟨3, false, false⟩), (0x68, ⟨4, false, false⟩), (0x28, ⟨4, false, false⟩)]  -- PHA PHP PLA PLP
  ++ [(0x29, ⟨2, false, false⟩), (0x25, ⟨3, false, false⟩), (0x35, ⟨4, false, false⟩), (0x2D, ⟨4, false, false⟩)]  -- AND
  ++ [(0x3D, ⟨4, true, false⟩), (0x39, ⟨4, true, false⟩), (0x21, ⟨6, false, false⟩), (0x31, ⟨5, true, false⟩)]
  ++ [(0x09, ⟨2, false, false⟩), (0x05, ⟨3, false, false⟩), (0x15, ⟨4, false, false⟩), (0x0D, ⟨4, false, false⟩)]  -- ORA
  ++ [(0x1D, ⟨4, true, false⟩), (0x19, ⟨4, true, false⟩), (0x01, ⟨6, false, false⟩), (0x11, ⟨5, true, false⟩)]
  ++ [(0x49, ⟨2, false, false⟩), (0x45, ⟨3, false, false⟩), (0x55, ⟨4, false, false⟩), (0x4D, ⟨4, false, false⟩)]  -- EOR
  ++ [(0x5D, ⟨4, true, false⟩), (0x59, ⟨4, true, false⟩), (0x41, ⟨6, false, false⟩), (0x51, ⟨5, true, false⟩)]
  ++ [(0x24, ⟨3, false, false⟩), (0x2C, ⟨4, false, false⟩)]  -- BIT
  ++ [(0x69, ⟨2, false, false⟩), (0x65, ⟨3, false, false⟩), (0x75, ⟨4, false, false⟩), (0x6D, ⟨4, false, false⟩)]  -- ADC
  ++ [(0x7D, ⟨4, true, false⟩), (0x79, ⟨4, true, false⟩), (0x61, ⟨6, false, false⟩), (0x71, ⟨5, true, false⟩)]
  ++ [(0xE9, ⟨2, false, false⟩), (0xE5, ⟨3, false, false⟩), (0xF5, ⟨4, false, false⟩), (0xED, ⟨4, false, false⟩)]  -- SBC
  ++ [(0xFD, ⟨4, true, false⟩), (0xF9, ⟨4, true, false⟩), (0xE1, ⟨6, false, false⟩), (0xF1, ⟨5, true, false⟩)]
  ++ [(0xC9, ⟨2, false, false⟩), (0xC5, ⟨3, false, false⟩), (0xD5, ⟨4, false, false⟩), (0xCD, ⟨4, false, false⟩)]  -- CMP
  ++ [(0xDD, ⟨4, true, false⟩), (0xD9, ⟨4, true, false⟩), (0xC1, ⟨6, false, false⟩), (0xD1, ⟨5, true, false⟩)]
  ++ [(0xE0, ⟨2, false, false⟩), (0xE4, ⟨3, false, false⟩), (0xEC, ⟨4, false, false⟩)]  -- CPX
  ++ [(0xC0, ⟨2, false, false⟩), (0xC4, ⟨3, false, false⟩), (0xCC, ⟨4, false, false⟩)]  -- CPY

/-- Base cycle counts of increments, decrements, shifts, control transfers, flag instructions and NOP (R113), the second flag
`true` where R113 writes `b`. -/
def cyclesIncShiftControlFlags : List (Byte × CycleRow) :=
  [(0xE6, ⟨5, false, false⟩), (0xF6, ⟨6, false, false⟩), (0xEE, ⟨6, false, false⟩), (0xFE, ⟨7, false, false⟩)]  -- INC
  ++ [(0xE8, ⟨2, false, false⟩), (0xC8, ⟨2, false, false⟩)]  -- INX INY
  ++ [(0xC6, ⟨5, false, false⟩), (0xD6, ⟨6, false, false⟩), (0xCE, ⟨6, false, false⟩), (0xDE, ⟨7, false, false⟩)]  -- DEC
  ++ [(0xCA, ⟨2, false, false⟩), (0x88, ⟨2, false, false⟩)]  -- DEX DEY
  ++ [(0x0A, ⟨2, false, false⟩), (0x06, ⟨5, false, false⟩), (0x16, ⟨6, false, false⟩), (0x0E, ⟨6, false, false⟩)]  -- ASL
  ++ [(0x1E, ⟨7, false, false⟩)]
  ++ [(0x4A, ⟨2, false, false⟩), (0x46, ⟨5, false, false⟩), (0x56, ⟨6, false, false⟩), (0x4E, ⟨6, false, false⟩)]  -- LSR
  ++ [(0x5E, ⟨7, false, false⟩)]
  ++ [(0x2A, ⟨2, false, false⟩), (0x26, ⟨5, false, false⟩), (0x36, ⟨6, false, false⟩), (0x2E, ⟨6, false, false⟩)]  -- ROL
  ++ [(0x3E, ⟨7, false, false⟩)]
  ++ [(0x6A, ⟨2, false, false⟩), (0x66, ⟨5, false, false⟩), (0x76, ⟨6, false, false⟩), (0x6E, ⟨6, false, false⟩)]  -- ROR
  ++ [(0x7E, ⟨7, false, false⟩)]
  ++ [(0x4C, ⟨3, false, false⟩), (0x6C, ⟨5, false, false⟩)]  -- JMP
  ++ [(0x20, ⟨6, false, false⟩), (0x60, ⟨6, false, false⟩), (0x00, ⟨7, false, false⟩), (0x40, ⟨6, false, false⟩)]  -- JSR RTS BRK RTI
  ++ [(0x90, ⟨2, false, true⟩), (0xB0, ⟨2, false, true⟩), (0xF0, ⟨2, false, true⟩), (0xD0, ⟨2, false, true⟩)]  -- BCC BCS BEQ BNE
  ++ [(0x30, ⟨2, false, true⟩), (0x10, ⟨2, false, true⟩), (0x50, ⟨2, false, true⟩), (0x70, ⟨2, false, true⟩)]  -- BMI BPL BVC BVS
  ++ [(0x18, ⟨2, false, false⟩), (0x38, ⟨2, false, false⟩), (0x58, ⟨2, false, false⟩), (0x78, ⟨2, false, false⟩)]  -- CLC SEC CLI SEI
  ++ [(0xB8, ⟨2, false, false⟩), (0xD8, ⟨2, false, false⟩), (0xF8, ⟨2, false, false⟩), (0xEA, ⟨2, false, false⟩)]  -- CLV CLD SED NOP

/-- The standard table CYCLES (R113). -/
def standardCycles : List (Byte × CycleRow) :=
  cyclesLoadStoreTransfer ++ cyclesStackLogicArith ++ cyclesIncShiftControlFlags

/-- The row of an opcode byte in a table. -/
def findCycles (op : Byte) (table : List (Byte × CycleRow)) : Option CycleRow :=
  match table with
  | [] => none
  | (k, row) :: rest => if k = op then some row else findCycles op rest

/-- CYCLES[op] (R9, R131): the launch parameter's row where it lists one, else the standard table's. -/
def cyclesOf (l : Launch) (op : Byte) : CycleRow :=
  match findCycles op l.cycleRows with
  | some row => row
  | none => (findCycles op standardCycles).getD ⟨0, false, false⟩

/-- Cost (R131): the base count, the page-cross penalty and, in a row with the branch penalty, the extra cycles the branch
returned (R225; log entry 11). Every instruction but a branch returns 0. -/
def cost (l : Launch) (op : Byte) (crossed : Bool) (extra : Nat) : Nat :=
  (cyclesOf l op).base + (if (cyclesOf l op).pageCross && crossed then 1 else 0)
    + (if (cyclesOf l op).branch then extra else 0)

/-- The end of an instruction: its cost is added to the cycle-steps owed (R321). -/
def retire (op : Byte) (crossed : Bool) (extra : Nat) (s : State) : Res Unit :=
  .ok () { s with cyclesRemaining := s.cyclesRemaining + cost s.launch op crossed extra }

end Sys2Proof.Machine
end

