-- ==== Sys2Proof/Machine/Operands.lean ====
section
/-!
DEFINITION. The addressing modes (R132 to R146 of spec/40_addressing_modes.md) and the shared bodies of the instructions over
them. The operand bytes have been fetched, and PC stands at the next sequential instruction, when a meaning runs (R130; log
entry 10).
-/
namespace Sys2Proof.Machine

/-! ## Addresses -/

/-- `zext_16` (R12). -/
def zext16 (b : Byte) : Word := b.setWidth 16

/-- `sext_16` (R12): the byte read as two's complement and widened. -/
def sext16 (b : Byte) : Word := b.signExtend 16

/-- PageCross (R146). -/
def pageCross (base ea : Word) : Bool := hiByte base != hiByte ea

/-- The operand forms that name a byte of memory. -/
inductive Addr where
  | zp (z : Byte)
  | zpx (z : Byte)
  | zpy (z : Byte)
  | abs (a : Word)
  | absx (a : Word)
  | absy (a : Word)
  | indx (z : Byte)
  | indy (z : Byte)
  deriving DecidableEq, Repr

/-- What a resolver gives (R132): the effective address and the page-cross flag. -/
structure Resolved where
  ea : Word
  crossed : Bool
  deriving DecidableEq, Repr

/-- The pointer at zero-page address `p`, its second byte wrapping within the zero page (R144, R145). -/
def zeroPagePointer (p : Byte) (s : State) : Res Word :=
  (memRead (zext16 p) s).bind fun lo s => (memRead (zext16 (p + 1)) s).bind fun hi s => .ok (leWord lo hi) s

/-- An indexed address with its page-cross flag (R141, R142, R145). -/
def indexed (base : Word) (index : Byte) : Resolved :=
  { ea := base + zext16 index, crossed := pageCross base (base + zext16 index) }

/-- Resolve (R136 to R138, R140 to R142, R144, R145), the operand bytes already fetched. -/
def resolve (m : Addr) (s : State) : Res Resolved :=
  match m with
  | .zp z => .ok { ea := zext16 z, crossed := false } s
  | .zpx z => .ok { ea := zext16 (z + s.x), crossed := false } s
  | .zpy z => .ok { ea := zext16 (z + s.y), crossed := false } s
  | .abs a => .ok { ea := a, crossed := false } s
  | .absx a => .ok (indexed a s.x) s
  | .absy a => .ok (indexed a s.y) s
  | .indx z => (zeroPagePointer (z + s.x) s).bind fun ea s => .ok { ea := ea, crossed := false } s
  | .indy z => (zeroPagePointer z s).bind fun base s => .ok (indexed base s.y) s

/-- The target of an indirect jump (R143): the high byte comes from the same page as the low byte. -/
def resolveIndirect (ptr : Word) (s : State) : Res Word :=
  (memRead ptr s).bind fun lo s =>
    (memRead (leWord (loByte ptr + 1) (hiByte ptr)) s).bind fun hi s => .ok (leWord lo hi) s

/-- The target of a relative branch (R139), from the address of the next instruction. -/
def branchTarget (d : Byte) (s : State) : Word := s.pc + sext16 d

/-! ## Operands -/

/-- The operand forms an instruction reads from: an immediate (R135) or a byte of memory. -/
inductive Source where
  | imm (m : Byte)
  | mem (m : Addr)
  deriving DecidableEq, Repr

/-- The operand forms a read-modify-write instruction works on: the accumulator (R134) or a byte of memory. -/
inductive Place where
  | acc
  | mem (m : Addr)
  deriving DecidableEq, Repr

/-- An operand read from a source. -/
structure Fetched where
  value : Byte
  crossed : Bool
  deriving DecidableEq, Repr

/-- Read the operand `m` of an instruction (R135, R146): an immediate was read by the fetch, a memory operand is read at its
effective address. -/
def readSource (src : Source) (s : State) : Res Fetched :=
  match src with
  | .imm m => .ok { value := m, crossed := false } s
  | .mem m => (resolve m s).bind fun r s => (memRead r.ea s).bind fun d s => .ok { value := d, crossed := r.crossed } s

/-! ## Shared bodies -/

/-- The body of LDA, LDX, LDY (R150 to R152). -/
def load (op : Byte) (r : Reg) (src : Source) (s : State) : Res Unit :=
  (readSource src s).bind fun m s => retire op m.crossed 0 ((s.setReg r m.value).setNZ m.value)

/-- The body of STA, STX, STY (R153 to R155). -/
def store (op : Byte) (r : Reg) (m : Addr) (s : State) : Res Unit :=
  (resolve m s).bind fun t s => (memWrite t.ea (s.reg r) s).bind fun _ s => retire op t.crossed 0 s

/-- The body of the transfers that set N and Z (R156 to R160): the value goes to a register. -/
def transfer (op : Byte) (r : Reg) (d : Byte) (s : State) : Res Unit := retire op false 0 ((s.setReg r d).setNZ d)

/-- The body of AND, ORA, EOR (R180 to R182). -/
def logic (op : Byte) (f : Byte → Byte → Byte) (src : Source) (s : State) : Res Unit :=
  (readSource src s).bind fun m s =>
    retire op m.crossed 0 ((s.setReg .a (f s.a m.value)).setNZ (f s.a m.value))

/-- The body of BIT (R183). -/
def bitTest (op : Byte) (src : Source) (s : State) : Res Unit :=
  (readSource src s).bind fun m s => retire op m.crossed 0 { s with p := s.p.afterBit s.a m.value }

/-- The body of ADC and SBC (R184, R185): `operand` is the identity for ADC, the one's complement for SBC. -/
def addWithCarry (op : Byte) (operand : Byte → Byte) (src : Source) (s : State) : Res Unit :=
  (readSource src s).bind fun m s =>
    retire op m.crossed 0
      { s with a := adcResult s.a (operand m.value) s.p.c, p := s.p.afterAdc s.a (operand m.value) }

/-- The body of CMP, CPX, CPY (R187 to R190). -/
def compare (op : Byte) (r : Reg) (src : Source) (s : State) : Res Unit :=
  (readSource src s).bind fun m s => retire op m.crossed 0 { s with p := s.p.afterCompare (s.reg r) m.value }

/-- The body of INC and DEC (R201, R204): one read, one write of the same address (R200). -/
def modify (op : Byte) (f : Byte → Byte) (m : Addr) (s : State) : Res Unit :=
  (resolve m s).bind fun t s =>
    (memRead t.ea s).bind fun d s =>
      (memWrite t.ea (f d) s).bind fun _ s => retire op t.crossed 0 (s.setNZ (f d))

/-- The body of INX, INY, DEX, DEY (R202, R203, R205, R206). -/
def modifyReg (op : Byte) (f : Byte → Byte) (r : Reg) (s : State) : Res Unit :=
  retire op false 0 ((s.setReg r (f (s.reg r))).setNZ (f (s.reg r)))

/-- The body of ASL, LSR, ROL, ROR (R207 to R210): the operand is read, C is set, the result is written back, N and Z are
set, in that order. -/
def shift (op : Byte) (f : Byte → Bool → Shifted) (pl : Place) (s : State) : Res Unit :=
  match pl with
  | .acc =>
    retire op false 0 (((s.setCarry (f s.a s.p.c).carry).setReg .a (f s.a s.p.c).result).setNZ (f s.a s.p.c).result)
  | .mem m =>
    (resolve m s).bind fun t s =>
      (memRead t.ea s).bind fun d s =>
        (memWrite t.ea (f d s.p.c).result (s.setCarry (f d s.p.c).carry)).bind fun _ s' =>
          retire op t.crossed 0 (s'.setNZ (f d s.p.c).result)

/-- The extra cycles of a branch (R225): one when taken, one more when the target lies in another page than the next
instruction. -/
def branchExtra (s : State) (target : Word) : Nat := 1 + (if pageCross s.pc target then 1 else 0)

/-- The body of the eight branches (R225). -/
def branch (op : Byte) (taken : Bool) (d : Byte) (s : State) : Res Unit :=
  if taken then retire op false (branchExtra s (branchTarget d s)) { s with pc := branchTarget d s }
  else retire op false 0 s

/-- The body of the flag instructions (R240 to R246). -/
def setFlags (op : Byte) (f : Flags → Flags) (s : State) : Res Unit := retire op false 0 { s with p := f s.p }

end Sys2Proof.Machine
end

