-- ==== Sys2Proof/Machine/Control.lean ====
section
/-!
DEFINITION. The meanings of jumps, subroutines, BRK, RTI and the branches (R220 to R233 of spec/45_control.md): one
definition per row of the opcode table, over the shared bodies of Operands.lean and Ops.lean.
-/
namespace Sys2Proof.Machine

/-- JMP abs (R220, R140). -/
def execJmpAbs (a : Word) (s : State) : Host.Outcome State Fault Refusal :=
  Res.outcome (retire 0x4C false 0 { s with pc := a })

/-- JMP ind (R220, R143). -/
def execJmpInd (a : Word) (s : State) : Host.Outcome State Fault Refusal :=
  Res.outcome ((resolveIndirect a s).bind fun target s => retire 0x6C false 0 { s with pc := target })

/-- JSR abs (R221, R140). -/
def execJsr (a : Word) (s : State) : Host.Outcome State Fault Refusal :=
  Res.outcome ((push16 (s.pc - 1) s).bind fun _ s => retire 0x20 false 0 { s with pc := a })

/-- RTS implicit (R222, R133). -/
def execRts (s : State) : Host.Outcome State Fault Refusal :=
  Res.outcome ((pull16 s).bind fun w s => retire 0x60 false 0 { s with pc := w + 1 })

/-- BRK implicit (R223, R133). -/
def execBrk (s : State) : Host.Outcome State Fault Refusal :=
  Res.outcome ((enterTrap (s.pc + 1) s.p.pushedBySoftware brkVector { s with pc := s.pc + 1 }).bind
    fun _ s => retire 0x00 false 0 s)

/-- RTI implicit (R224, R133). -/
def execRti (s : State) : Host.Outcome State Fault Refusal :=
  Res.outcome ((returnFromTrap s).bind fun _ s => retire 0x40 false 0 s)

/-- BCC rel (R226, R139). -/
def execBcc (d : Byte) (s : State) : Host.Outcome State Fault Refusal :=
  Res.outcome (branch 0x90 (!s.p.c) d s)

/-- BCS rel (R227, R139). -/
def execBcs (d : Byte) (s : State) : Host.Outcome State Fault Refusal :=
  Res.outcome (branch 0xB0 s.p.c d s)

/-- BEQ rel (R228, R139). -/
def execBeq (d : Byte) (s : State) : Host.Outcome State Fault Refusal :=
  Res.outcome (branch 0xF0 s.p.z d s)

/-- BNE rel (R229, R139). -/
def execBne (d : Byte) (s : State) : Host.Outcome State Fault Refusal :=
  Res.outcome (branch 0xD0 (!s.p.z) d s)

/-- BMI rel (R230, R139). -/
def execBmi (d : Byte) (s : State) : Host.Outcome State Fault Refusal :=
  Res.outcome (branch 0x30 s.p.n d s)

/-- BPL rel (R231, R139). -/
def execBpl (d : Byte) (s : State) : Host.Outcome State Fault Refusal :=
  Res.outcome (branch 0x10 (!s.p.n) d s)

/-- BVC rel (R232, R139). -/
def execBvc (d : Byte) (s : State) : Host.Outcome State Fault Refusal :=
  Res.outcome (branch 0x50 (!s.p.v) d s)

/-- BVS rel (R233, R139). -/
def execBvs (d : Byte) (s : State) : Host.Outcome State Fault Refusal :=
  Res.outcome (branch 0x70 s.p.v d s)

end Sys2Proof.Machine
end

