-- ==== Sys2Proof/Machine/FlagOps.lean ====
section
/-!
DEFINITION. The meanings of the flag instructions and NOP (R240 to R247 of spec/46_flags_nop.md): one
definition per row of the opcode table, over the shared bodies of Operands.lean and Ops.lean.
-/
namespace Sys2Proof.Machine

/-- CLC implicit (R240, R133). -/
def execClc (s : State) : Host.Outcome State Fault Refusal :=
  Res.outcome (setFlags 0x18 (fun p => { p with c := false }) s)

/-- SEC implicit (R241, R133). -/
def execSec (s : State) : Host.Outcome State Fault Refusal :=
  Res.outcome (setFlags 0x38 (fun p => { p with c := true }) s)

/-- CLI implicit (R242, R133). -/
def execCli (s : State) : Host.Outcome State Fault Refusal :=
  Res.outcome (setFlags 0x58 (fun p => { p with i := false }) s)

/-- SEI implicit (R243, R133). -/
def execSei (s : State) : Host.Outcome State Fault Refusal :=
  Res.outcome (setFlags 0x78 (fun p => { p with i := true }) s)

/-- CLV implicit (R244, R133). -/
def execClv (s : State) : Host.Outcome State Fault Refusal :=
  Res.outcome (setFlags 0xB8 (fun p => { p with v := false }) s)

/-- CLD implicit (R245, R133). -/
def execCld (s : State) : Host.Outcome State Fault Refusal :=
  Res.outcome (setFlags 0xD8 (fun p => { p with d := false }) s)

/-- SED implicit (R246, R133). -/
def execSed (s : State) : Host.Outcome State Fault Refusal :=
  Res.outcome (setFlags 0xF8 (fun p => { p with d := true }) s)

/-- NOP implicit (R247, R133). -/
def execNop (s : State) : Host.Outcome State Fault Refusal :=
  Res.outcome (retire 0xEA false 0 s)

end Sys2Proof.Machine
end

