-- ==== Sys2Proof/Machine/IncDecShift.lean ====
section
/-!
DEFINITION. The meanings of increments, decrements, shifts and rotates (R200 to R210 of spec/44_incdec_shift.md): one
definition per row of the opcode table, over the shared bodies of Operands.lean and Ops.lean.
-/
namespace Sys2Proof.Machine

/-- INC zp (R201, R136). -/
def execIncZp (z : Byte) (s : State) : Host.Outcome State Fault Refusal :=
  Res.outcome (modify 0xE6 (fun d => d + 1) (.zp z) s)

/-- INC zpx (R201, R137). -/
def execIncZpx (z : Byte) (s : State) : Host.Outcome State Fault Refusal :=
  Res.outcome (modify 0xF6 (fun d => d + 1) (.zpx z) s)

/-- INC abs (R201, R140). -/
def execIncAbs (a : Word) (s : State) : Host.Outcome State Fault Refusal :=
  Res.outcome (modify 0xEE (fun d => d + 1) (.abs a) s)

/-- INC absx (R201, R141). -/
def execIncAbsx (a : Word) (s : State) : Host.Outcome State Fault Refusal :=
  Res.outcome (modify 0xFE (fun d => d + 1) (.absx a) s)

/-- INX implicit (R202, R133). -/
def execInx (s : State) : Host.Outcome State Fault Refusal :=
  Res.outcome (modifyReg 0xE8 (fun d => d + 1) .x s)

/-- INY implicit (R203, R133). -/
def execIny (s : State) : Host.Outcome State Fault Refusal :=
  Res.outcome (modifyReg 0xC8 (fun d => d + 1) .y s)

/-- DEC zp (R204, R136). -/
def execDecZp (z : Byte) (s : State) : Host.Outcome State Fault Refusal :=
  Res.outcome (modify 0xC6 (fun d => d - 1) (.zp z) s)

/-- DEC zpx (R204, R137). -/
def execDecZpx (z : Byte) (s : State) : Host.Outcome State Fault Refusal :=
  Res.outcome (modify 0xD6 (fun d => d - 1) (.zpx z) s)

/-- DEC abs (R204, R140). -/
def execDecAbs (a : Word) (s : State) : Host.Outcome State Fault Refusal :=
  Res.outcome (modify 0xCE (fun d => d - 1) (.abs a) s)

/-- DEC absx (R204, R141). -/
def execDecAbsx (a : Word) (s : State) : Host.Outcome State Fault Refusal :=
  Res.outcome (modify 0xDE (fun d => d - 1) (.absx a) s)

/-- DEX implicit (R205, R133). -/
def execDex (s : State) : Host.Outcome State Fault Refusal :=
  Res.outcome (modifyReg 0xCA (fun d => d - 1) .x s)

/-- DEY implicit (R206, R133). -/
def execDey (s : State) : Host.Outcome State Fault Refusal :=
  Res.outcome (modifyReg 0x88 (fun d => d - 1) .y s)

/-- ASL accumulator (R207, R134). -/
def execAslAcc (s : State) : Host.Outcome State Fault Refusal :=
  Res.outcome (shift 0x0A shiftAsl .acc s)

/-- ASL zp (R207, R136). -/
def execAslZp (z : Byte) (s : State) : Host.Outcome State Fault Refusal :=
  Res.outcome (shift 0x06 shiftAsl (.mem (.zp z)) s)

/-- ASL zpx (R207, R137). -/
def execAslZpx (z : Byte) (s : State) : Host.Outcome State Fault Refusal :=
  Res.outcome (shift 0x16 shiftAsl (.mem (.zpx z)) s)

/-- ASL abs (R207, R140). -/
def execAslAbs (a : Word) (s : State) : Host.Outcome State Fault Refusal :=
  Res.outcome (shift 0x0E shiftAsl (.mem (.abs a)) s)

/-- ASL absx (R207, R141). -/
def execAslAbsx (a : Word) (s : State) : Host.Outcome State Fault Refusal :=
  Res.outcome (shift 0x1E shiftAsl (.mem (.absx a)) s)

/-- LSR accumulator (R208, R134). -/
def execLsrAcc (s : State) : Host.Outcome State Fault Refusal :=
  Res.outcome (shift 0x4A shiftLsr .acc s)

/-- LSR zp (R208, R136). -/
def execLsrZp (z : Byte) (s : State) : Host.Outcome State Fault Refusal :=
  Res.outcome (shift 0x46 shiftLsr (.mem (.zp z)) s)

/-- LSR zpx (R208, R137). -/
def execLsrZpx (z : Byte) (s : State) : Host.Outcome State Fault Refusal :=
  Res.outcome (shift 0x56 shiftLsr (.mem (.zpx z)) s)

/-- LSR abs (R208, R140). -/
def execLsrAbs (a : Word) (s : State) : Host.Outcome State Fault Refusal :=
  Res.outcome (shift 0x4E shiftLsr (.mem (.abs a)) s)

/-- LSR absx (R208, R141). -/
def execLsrAbsx (a : Word) (s : State) : Host.Outcome State Fault Refusal :=
  Res.outcome (shift 0x5E shiftLsr (.mem (.absx a)) s)

/-- ROL accumulator (R209, R134). -/
def execRolAcc (s : State) : Host.Outcome State Fault Refusal :=
  Res.outcome (shift 0x2A shiftRol .acc s)

/-- ROL zp (R209, R136). -/
def execRolZp (z : Byte) (s : State) : Host.Outcome State Fault Refusal :=
  Res.outcome (shift 0x26 shiftRol (.mem (.zp z)) s)

/-- ROL zpx (R209, R137). -/
def execRolZpx (z : Byte) (s : State) : Host.Outcome State Fault Refusal :=
  Res.outcome (shift 0x36 shiftRol (.mem (.zpx z)) s)

/-- ROL abs (R209, R140). -/
def execRolAbs (a : Word) (s : State) : Host.Outcome State Fault Refusal :=
  Res.outcome (shift 0x2E shiftRol (.mem (.abs a)) s)

/-- ROL absx (R209, R141). -/
def execRolAbsx (a : Word) (s : State) : Host.Outcome State Fault Refusal :=
  Res.outcome (shift 0x3E shiftRol (.mem (.absx a)) s)

/-- ROR accumulator (R210, R134). -/
def execRorAcc (s : State) : Host.Outcome State Fault Refusal :=
  Res.outcome (shift 0x6A shiftRor .acc s)

/-- ROR zp (R210, R136). -/
def execRorZp (z : Byte) (s : State) : Host.Outcome State Fault Refusal :=
  Res.outcome (shift 0x66 shiftRor (.mem (.zp z)) s)

/-- ROR zpx (R210, R137). -/
def execRorZpx (z : Byte) (s : State) : Host.Outcome State Fault Refusal :=
  Res.outcome (shift 0x76 shiftRor (.mem (.zpx z)) s)

/-- ROR abs (R210, R140). -/
def execRorAbs (a : Word) (s : State) : Host.Outcome State Fault Refusal :=
  Res.outcome (shift 0x6E shiftRor (.mem (.abs a)) s)

/-- ROR absx (R210, R141). -/
def execRorAbsx (a : Word) (s : State) : Host.Outcome State Fault Refusal :=
  Res.outcome (shift 0x7E shiftRor (.mem (.absx a)) s)

end Sys2Proof.Machine
end

