-- ==== Sys2Proof/Machine/LoadStoreTransfer.lean ====
section
/-!
DEFINITION. The meanings of loads, stores and register transfers (R150 to R161 of spec/41_load_store_transfer.md): one
definition per row of the opcode table, over the shared bodies of Operands.lean and Ops.lean.
-/
namespace Sys2Proof.Machine

/-- LDA imm (R150, R135). -/
def execLdaImm (m : Byte) (s : State) : Host.Outcome State Fault Refusal :=
  Res.outcome (load 0xA9 .a (.imm m) s)

/-- LDA zp (R150, R136). -/
def execLdaZp (z : Byte) (s : State) : Host.Outcome State Fault Refusal :=
  Res.outcome (load 0xA5 .a (.mem (.zp z)) s)

/-- LDA zpx (R150, R137). -/
def execLdaZpx (z : Byte) (s : State) : Host.Outcome State Fault Refusal :=
  Res.outcome (load 0xB5 .a (.mem (.zpx z)) s)

/-- LDA abs (R150, R140). -/
def execLdaAbs (a : Word) (s : State) : Host.Outcome State Fault Refusal :=
  Res.outcome (load 0xAD .a (.mem (.abs a)) s)

/-- LDA absx (R150, R141). -/
def execLdaAbsx (a : Word) (s : State) : Host.Outcome State Fault Refusal :=
  Res.outcome (load 0xBD .a (.mem (.absx a)) s)

/-- LDA absy (R150, R142). -/
def execLdaAbsy (a : Word) (s : State) : Host.Outcome State Fault Refusal :=
  Res.outcome (load 0xB9 .a (.mem (.absy a)) s)

/-- LDA indx (R150, R144). -/
def execLdaIndx (z : Byte) (s : State) : Host.Outcome State Fault Refusal :=
  Res.outcome (load 0xA1 .a (.mem (.indx z)) s)

/-- LDA indy (R150, R145). -/
def execLdaIndy (z : Byte) (s : State) : Host.Outcome State Fault Refusal :=
  Res.outcome (load 0xB1 .a (.mem (.indy z)) s)

/-- LDX imm (R151, R135). -/
def execLdxImm (m : Byte) (s : State) : Host.Outcome State Fault Refusal :=
  Res.outcome (load 0xA2 .x (.imm m) s)

/-- LDX zp (R151, R136). -/
def execLdxZp (z : Byte) (s : State) : Host.Outcome State Fault Refusal :=
  Res.outcome (load 0xA6 .x (.mem (.zp z)) s)

/-- LDX zpy (R151, R138). -/
def execLdxZpy (z : Byte) (s : State) : Host.Outcome State Fault Refusal :=
  Res.outcome (load 0xB6 .x (.mem (.zpy z)) s)

/-- LDX abs (R151, R140). -/
def execLdxAbs (a : Word) (s : State) : Host.Outcome State Fault Refusal :=
  Res.outcome (load 0xAE .x (.mem (.abs a)) s)

/-- LDX absy (R151, R142). -/
def execLdxAbsy (a : Word) (s : State) : Host.Outcome State Fault Refusal :=
  Res.outcome (load 0xBE .x (.mem (.absy a)) s)

/-- LDY imm (R152, R135). -/
def execLdyImm (m : Byte) (s : State) : Host.Outcome State Fault Refusal :=
  Res.outcome (load 0xA0 .y (.imm m) s)

/-- LDY zp (R152, R136). -/
def execLdyZp (z : Byte) (s : State) : Host.Outcome State Fault Refusal :=
  Res.outcome (load 0xA4 .y (.mem (.zp z)) s)

/-- LDY zpx (R152, R137). -/
def execLdyZpx (z : Byte) (s : State) : Host.Outcome State Fault Refusal :=
  Res.outcome (load 0xB4 .y (.mem (.zpx z)) s)

/-- LDY abs (R152, R140). -/
def execLdyAbs (a : Word) (s : State) : Host.Outcome State Fault Refusal :=
  Res.outcome (load 0xAC .y (.mem (.abs a)) s)

/-- LDY absx (R152, R141). -/
def execLdyAbsx (a : Word) (s : State) : Host.Outcome State Fault Refusal :=
  Res.outcome (load 0xBC .y (.mem (.absx a)) s)

/-- STA zp (R153, R136). -/
def execStaZp (z : Byte) (s : State) : Host.Outcome State Fault Refusal :=
  Res.outcome (store 0x85 .a (.zp z) s)

/-- STA zpx (R153, R137). -/
def execStaZpx (z : Byte) (s : State) : Host.Outcome State Fault Refusal :=
  Res.outcome (store 0x95 .a (.zpx z) s)

/-- STA abs (R153, R140). -/
def execStaAbs (a : Word) (s : State) : Host.Outcome State Fault Refusal :=
  Res.outcome (store 0x8D .a (.abs a) s)

/-- STA absx (R153, R141). -/
def execStaAbsx (a : Word) (s : State) : Host.Outcome State Fault Refusal :=
  Res.outcome (store 0x9D .a (.absx a) s)

/-- STA absy (R153, R142). -/
def execStaAbsy (a : Word) (s : State) : Host.Outcome State Fault Refusal :=
  Res.outcome (store 0x99 .a (.absy a) s)

/-- STA indx (R153, R144). -/
def execStaIndx (z : Byte) (s : State) : Host.Outcome State Fault Refusal :=
  Res.outcome (store 0x81 .a (.indx z) s)

/-- STA indy (R153, R145). -/
def execStaIndy (z : Byte) (s : State) : Host.Outcome State Fault Refusal :=
  Res.outcome (store 0x91 .a (.indy z) s)

/-- STX zp (R154, R136). -/
def execStxZp (z : Byte) (s : State) : Host.Outcome State Fault Refusal :=
  Res.outcome (store 0x86 .x (.zp z) s)

/-- STX zpy (R154, R138). -/
def execStxZpy (z : Byte) (s : State) : Host.Outcome State Fault Refusal :=
  Res.outcome (store 0x96 .x (.zpy z) s)

/-- STX abs (R154, R140). -/
def execStxAbs (a : Word) (s : State) : Host.Outcome State Fault Refusal :=
  Res.outcome (store 0x8E .x (.abs a) s)

/-- STY zp (R155, R136). -/
def execStyZp (z : Byte) (s : State) : Host.Outcome State Fault Refusal :=
  Res.outcome (store 0x84 .y (.zp z) s)

/-- STY zpx (R155, R137). -/
def execStyZpx (z : Byte) (s : State) : Host.Outcome State Fault Refusal :=
  Res.outcome (store 0x94 .y (.zpx z) s)

/-- STY abs (R155, R140). -/
def execStyAbs (a : Word) (s : State) : Host.Outcome State Fault Refusal :=
  Res.outcome (store 0x8C .y (.abs a) s)

/-- TAX implicit (R156, R133). -/
def execTax (s : State) : Host.Outcome State Fault Refusal :=
  Res.outcome (transfer 0xAA .x s.a s)

/-- TAY implicit (R157, R133). -/
def execTay (s : State) : Host.Outcome State Fault Refusal :=
  Res.outcome (transfer 0xA8 .y s.a s)

/-- TXA implicit (R158, R133). -/
def execTxa (s : State) : Host.Outcome State Fault Refusal :=
  Res.outcome (transfer 0x8A .a s.x s)

/-- TYA implicit (R159, R133). -/
def execTya (s : State) : Host.Outcome State Fault Refusal :=
  Res.outcome (transfer 0x98 .a s.y s)

/-- TSX implicit (R160, R133). -/
def execTsx (s : State) : Host.Outcome State Fault Refusal :=
  Res.outcome (transfer 0xBA .x s.sp s)

/-- TXS implicit (R161, R133). -/
def execTxs (s : State) : Host.Outcome State Fault Refusal :=
  Res.outcome (retire 0x9A false 0 { s with sp := s.x })

end Sys2Proof.Machine
end

