-- ==== Sys2Proof/Machine/LogicArith.lean ====
section
/-!
DEFINITION. The meanings of logic, arithmetic and compare (R180 to R190 of spec/43_logic_arith.md): one
definition per row of the opcode table, over the shared bodies of Operands.lean and Ops.lean.
-/
namespace Sys2Proof.Machine

/-- AND imm (R180, R135). -/
def execAndImm (m : Byte) (s : State) : Host.Outcome State Fault Refusal :=
  Res.outcome (logic 0x29 (fun a m => a &&& m) (.imm m) s)

/-- AND zp (R180, R136). -/
def execAndZp (z : Byte) (s : State) : Host.Outcome State Fault Refusal :=
  Res.outcome (logic 0x25 (fun a m => a &&& m) (.mem (.zp z)) s)

/-- AND zpx (R180, R137). -/
def execAndZpx (z : Byte) (s : State) : Host.Outcome State Fault Refusal :=
  Res.outcome (logic 0x35 (fun a m => a &&& m) (.mem (.zpx z)) s)

/-- AND abs (R180, R140). -/
def execAndAbs (a : Word) (s : State) : Host.Outcome State Fault Refusal :=
  Res.outcome (logic 0x2D (fun a m => a &&& m) (.mem (.abs a)) s)

/-- AND absx (R180, R141). -/
def execAndAbsx (a : Word) (s : State) : Host.Outcome State Fault Refusal :=
  Res.outcome (logic 0x3D (fun a m => a &&& m) (.mem (.absx a)) s)

/-- AND absy (R180, R142). -/
def execAndAbsy (a : Word) (s : State) : Host.Outcome State Fault Refusal :=
  Res.outcome (logic 0x39 (fun a m => a &&& m) (.mem (.absy a)) s)

/-- AND indx (R180, R144). -/
def execAndIndx (z : Byte) (s : State) : Host.Outcome State Fault Refusal :=
  Res.outcome (logic 0x21 (fun a m => a &&& m) (.mem (.indx z)) s)

/-- AND indy (R180, R145). -/
def execAndIndy (z : Byte) (s : State) : Host.Outcome State Fault Refusal :=
  Res.outcome (logic 0x31 (fun a m => a &&& m) (.mem (.indy z)) s)

/-- ORA imm (R181, R135). -/
def execOraImm (m : Byte) (s : State) : Host.Outcome State Fault Refusal :=
  Res.outcome (logic 0x09 (fun a m => a ||| m) (.imm m) s)

/-- ORA zp (R181, R136). -/
def execOraZp (z : Byte) (s : State) : Host.Outcome State Fault Refusal :=
  Res.outcome (logic 0x05 (fun a m => a ||| m) (.mem (.zp z)) s)

/-- ORA zpx (R181, R137). -/
def execOraZpx (z : Byte) (s : State) : Host.Outcome State Fault Refusal :=
  Res.outcome (logic 0x15 (fun a m => a ||| m) (.mem (.zpx z)) s)

/-- ORA abs (R181, R140). -/
def execOraAbs (a : Word) (s : State) : Host.Outcome State Fault Refusal :=
  Res.outcome (logic 0x0D (fun a m => a ||| m) (.mem (.abs a)) s)

/-- ORA absx (R181, R141). -/
def execOraAbsx (a : Word) (s : State) : Host.Outcome State Fault Refusal :=
  Res.outcome (logic 0x1D (fun a m => a ||| m) (.mem (.absx a)) s)

/-- ORA absy (R181, R142). -/
def execOraAbsy (a : Word) (s : State) : Host.Outcome State Fault Refusal :=
  Res.outcome (logic 0x19 (fun a m => a ||| m) (.mem (.absy a)) s)

/-- ORA indx (R181, R144). -/
def execOraIndx (z : Byte) (s : State) : Host.Outcome State Fault Refusal :=
  Res.outcome (logic 0x01 (fun a m => a ||| m) (.mem (.indx z)) s)

/-- ORA indy (R181, R145). -/
def execOraIndy (z : Byte) (s : State) : Host.Outcome State Fault Refusal :=
  Res.outcome (logic 0x11 (fun a m => a ||| m) (.mem (.indy z)) s)

/-- EOR imm (R182, R135). -/
def execEorImm (m : Byte) (s : State) : Host.Outcome State Fault Refusal :=
  Res.outcome (logic 0x49 (fun a m => a ^^^ m) (.imm m) s)

/-- EOR zp (R182, R136). -/
def execEorZp (z : Byte) (s : State) : Host.Outcome State Fault Refusal :=
  Res.outcome (logic 0x45 (fun a m => a ^^^ m) (.mem (.zp z)) s)

/-- EOR zpx (R182, R137). -/
def execEorZpx (z : Byte) (s : State) : Host.Outcome State Fault Refusal :=
  Res.outcome (logic 0x55 (fun a m => a ^^^ m) (.mem (.zpx z)) s)

/-- EOR abs (R182, R140). -/
def execEorAbs (a : Word) (s : State) : Host.Outcome State Fault Refusal :=
  Res.outcome (logic 0x4D (fun a m => a ^^^ m) (.mem (.abs a)) s)

/-- EOR absx (R182, R141). -/
def execEorAbsx (a : Word) (s : State) : Host.Outcome State Fault Refusal :=
  Res.outcome (logic 0x5D (fun a m => a ^^^ m) (.mem (.absx a)) s)

/-- EOR absy (R182, R142). -/
def execEorAbsy (a : Word) (s : State) : Host.Outcome State Fault Refusal :=
  Res.outcome (logic 0x59 (fun a m => a ^^^ m) (.mem (.absy a)) s)

/-- EOR indx (R182, R144). -/
def execEorIndx (z : Byte) (s : State) : Host.Outcome State Fault Refusal :=
  Res.outcome (logic 0x41 (fun a m => a ^^^ m) (.mem (.indx z)) s)

/-- EOR indy (R182, R145). -/
def execEorIndy (z : Byte) (s : State) : Host.Outcome State Fault Refusal :=
  Res.outcome (logic 0x51 (fun a m => a ^^^ m) (.mem (.indy z)) s)

/-- BIT zp (R183, R136). -/
def execBitZp (z : Byte) (s : State) : Host.Outcome State Fault Refusal :=
  Res.outcome (bitTest 0x24 (.mem (.zp z)) s)

/-- BIT abs (R183, R140). -/
def execBitAbs (a : Word) (s : State) : Host.Outcome State Fault Refusal :=
  Res.outcome (bitTest 0x2C (.mem (.abs a)) s)

/-- ADC imm (R184, R135). -/
def execAdcImm (m : Byte) (s : State) : Host.Outcome State Fault Refusal :=
  Res.outcome (addWithCarry 0x69 (fun m => m) (.imm m) s)

/-- ADC zp (R184, R136). -/
def execAdcZp (z : Byte) (s : State) : Host.Outcome State Fault Refusal :=
  Res.outcome (addWithCarry 0x65 (fun m => m) (.mem (.zp z)) s)

/-- ADC zpx (R184, R137). -/
def execAdcZpx (z : Byte) (s : State) : Host.Outcome State Fault Refusal :=
  Res.outcome (addWithCarry 0x75 (fun m => m) (.mem (.zpx z)) s)

/-- ADC abs (R184, R140). -/
def execAdcAbs (a : Word) (s : State) : Host.Outcome State Fault Refusal :=
  Res.outcome (addWithCarry 0x6D (fun m => m) (.mem (.abs a)) s)

/-- ADC absx (R184, R141). -/
def execAdcAbsx (a : Word) (s : State) : Host.Outcome State Fault Refusal :=
  Res.outcome (addWithCarry 0x7D (fun m => m) (.mem (.absx a)) s)

/-- ADC absy (R184, R142). -/
def execAdcAbsy (a : Word) (s : State) : Host.Outcome State Fault Refusal :=
  Res.outcome (addWithCarry 0x79 (fun m => m) (.mem (.absy a)) s)

/-- ADC indx (R184, R144). -/
def execAdcIndx (z : Byte) (s : State) : Host.Outcome State Fault Refusal :=
  Res.outcome (addWithCarry 0x61 (fun m => m) (.mem (.indx z)) s)

/-- ADC indy (R184, R145). -/
def execAdcIndy (z : Byte) (s : State) : Host.Outcome State Fault Refusal :=
  Res.outcome (addWithCarry 0x71 (fun m => m) (.mem (.indy z)) s)

/-- SBC imm (R185, R135). -/
def execSbcImm (m : Byte) (s : State) : Host.Outcome State Fault Refusal :=
  Res.outcome (addWithCarry 0xE9 sbcOperand (.imm m) s)

/-- SBC zp (R185, R136). -/
def execSbcZp (z : Byte) (s : State) : Host.Outcome State Fault Refusal :=
  Res.outcome (addWithCarry 0xE5 sbcOperand (.mem (.zp z)) s)

/-- SBC zpx (R185, R137). -/
def execSbcZpx (z : Byte) (s : State) : Host.Outcome State Fault Refusal :=
  Res.outcome (addWithCarry 0xF5 sbcOperand (.mem (.zpx z)) s)

/-- SBC abs (R185, R140). -/
def execSbcAbs (a : Word) (s : State) : Host.Outcome State Fault Refusal :=
  Res.outcome (addWithCarry 0xED sbcOperand (.mem (.abs a)) s)

/-- SBC absx (R185, R141). -/
def execSbcAbsx (a : Word) (s : State) : Host.Outcome State Fault Refusal :=
  Res.outcome (addWithCarry 0xFD sbcOperand (.mem (.absx a)) s)

/-- SBC absy (R185, R142). -/
def execSbcAbsy (a : Word) (s : State) : Host.Outcome State Fault Refusal :=
  Res.outcome (addWithCarry 0xF9 sbcOperand (.mem (.absy a)) s)

/-- SBC indx (R185, R144). -/
def execSbcIndx (z : Byte) (s : State) : Host.Outcome State Fault Refusal :=
  Res.outcome (addWithCarry 0xE1 sbcOperand (.mem (.indx z)) s)

/-- SBC indy (R185, R145). -/
def execSbcIndy (z : Byte) (s : State) : Host.Outcome State Fault Refusal :=
  Res.outcome (addWithCarry 0xF1 sbcOperand (.mem (.indy z)) s)

/-- CMP imm (R188, R135). -/
def execCmpImm (m : Byte) (s : State) : Host.Outcome State Fault Refusal :=
  Res.outcome (compare 0xC9 .a (.imm m) s)

/-- CMP zp (R188, R136). -/
def execCmpZp (z : Byte) (s : State) : Host.Outcome State Fault Refusal :=
  Res.outcome (compare 0xC5 .a (.mem (.zp z)) s)

/-- CMP zpx (R188, R137). -/
def execCmpZpx (z : Byte) (s : State) : Host.Outcome State Fault Refusal :=
  Res.outcome (compare 0xD5 .a (.mem (.zpx z)) s)

/-- CMP abs (R188, R140). -/
def execCmpAbs (a : Word) (s : State) : Host.Outcome State Fault Refusal :=
  Res.outcome (compare 0xCD .a (.mem (.abs a)) s)

/-- CMP absx (R188, R141). -/
def execCmpAbsx (a : Word) (s : State) : Host.Outcome State Fault Refusal :=
  Res.outcome (compare 0xDD .a (.mem (.absx a)) s)

/-- CMP absy (R188, R142). -/
def execCmpAbsy (a : Word) (s : State) : Host.Outcome State Fault Refusal :=
  Res.outcome (compare 0xD9 .a (.mem (.absy a)) s)

/-- CMP indx (R188, R144). -/
def execCmpIndx (z : Byte) (s : State) : Host.Outcome State Fault Refusal :=
  Res.outcome (compare 0xC1 .a (.mem (.indx z)) s)

/-- CMP indy (R188, R145). -/
def execCmpIndy (z : Byte) (s : State) : Host.Outcome State Fault Refusal :=
  Res.outcome (compare 0xD1 .a (.mem (.indy z)) s)

/-- CPX imm (R189, R135). -/
def execCpxImm (m : Byte) (s : State) : Host.Outcome State Fault Refusal :=
  Res.outcome (compare 0xE0 .x (.imm m) s)

/-- CPX zp (R189, R136). -/
def execCpxZp (z : Byte) (s : State) : Host.Outcome State Fault Refusal :=
  Res.outcome (compare 0xE4 .x (.mem (.zp z)) s)

/-- CPX abs (R189, R140). -/
def execCpxAbs (a : Word) (s : State) : Host.Outcome State Fault Refusal :=
  Res.outcome (compare 0xEC .x (.mem (.abs a)) s)

/-- CPY imm (R190, R135). -/
def execCpyImm (m : Byte) (s : State) : Host.Outcome State Fault Refusal :=
  Res.outcome (compare 0xC0 .y (.imm m) s)

/-- CPY zp (R190, R136). -/
def execCpyZp (z : Byte) (s : State) : Host.Outcome State Fault Refusal :=
  Res.outcome (compare 0xC4 .y (.mem (.zp z)) s)

/-- CPY abs (R190, R140). -/
def execCpyAbs (a : Word) (s : State) : Host.Outcome State Fault Refusal :=
  Res.outcome (compare 0xCC .y (.mem (.abs a)) s)

end Sys2Proof.Machine
end

