-- ==== Sys2Proof/Machine/Stack.lean ====
section
/-!
DEFINITION. The meanings of the stack instructions (R172 to R175 of spec/42_stack.md): one
definition per row of the opcode table, over the shared bodies of Operands.lean and Ops.lean.
-/
namespace Sys2Proof.Machine

/-- PHA implicit (R172, R133). -/
def execPha (s : State) : Host.Outcome State Fault Refusal :=
  Res.outcome ((push s.a s).bind fun _ s => retire 0x48 false 0 s)

/-- PHP implicit (R173, R133). -/
def execPhp (s : State) : Host.Outcome State Fault Refusal :=
  Res.outcome ((push s.p.pushedBySoftware s).bind fun _ s => retire 0x08 false 0 s)

/-- PLA implicit (R174, R133). -/
def execPla (s : State) : Host.Outcome State Fault Refusal :=
  Res.outcome ((pull s).bind fun d s => retire 0x68 false 0 ((s.setReg .a d).setNZ d))

/-- PLP implicit (R175, R133). -/
def execPlp (s : State) : Host.Outcome State Fault Refusal :=
  Res.outcome ((pull s).bind fun d s => retire 0x28 false 0 { s with p := Flags.pulled d })

end Sys2Proof.Machine
end

