-- ==== Sys2Proof/Machine/Render.lean ====
section
/-!
DEFINITION. The PPU's own step, `PpuCycle` (R280 to R301, R305 of spec/51_ppu_rendering.md): the position counter, the status
events and NMI, the background fetch and shift pipeline, and pixel output. Everything is decided by the position held at the
beginning of the call; the position is advanced last (R280).
-/
namespace Sys2Proof.Machine

/-! ## Fields of `v` (R42) -/

/-- `v[4:0]`. -/
def coarseX (v : BitVec 15) : BitVec 5 := v.extractLsb' 0 5

/-- `v[9:5]`. -/
def coarseY (v : BitVec 15) : BitVec 5 := v.extractLsb' 5 5

/-- `v[14:12]`. -/
def fineY (v : BitVec 15) : BitVec 3 := v.extractLsb' 12 3

/-! ## Position (R281, R282, R287, R288) -/

/-- RenderLine (R282): a visible line or the pre-render line. -/
def renderLine (scanline : Nat) : Bool := decide (scanline ≤ 239) || scanline == 261

/-- RenderingEnabled (R287). -/
def Ppu.renderingEnabled (p : Ppu) : Bool := p.bgEnable || p.spriteEnable

/-- FetchWindow (R288). -/
def fetchWindow (cycle : Nat) : Bool :=
  (decide (1 ≤ cycle) && decide (cycle ≤ 256)) || (decide (321 ≤ cycle) && decide (cycle ≤ 336))

/-- Advance (R281): 341 cycles a line, 262 lines; the wrap to (0, 0) completes a frame. -/
def advancePosition (s : State) : State :=
  if s.ppu.cycle = 340 then
    if s.ppu.scanline = 261 then
      { s with ppu := { s.ppu with cycle := 0, scanline := 0 }, frameComplete := true }
    else { s with ppu := { s.ppu with cycle := 0, scanline := s.ppu.scanline + 1 } }
  else { s with ppu := { s.ppu with cycle := s.ppu.cycle + 1 } }

/-- StatusEvents (R284, R285). -/
def statusEvents (s : State) : State :=
  if s.ppu.scanline = 241 ∧ s.ppu.cycle = 1 then
    { s with ppu := { s.ppu with vblank := true }, nmiPending := s.nmiPending || s.ppu.nmiEnable }
  else if s.ppu.scanline = 261 ∧ s.ppu.cycle = 1 then
    { s with ppu := { s.ppu with vblank := false, sprite0Hit := false, spriteOverflow := false } }
  else s

/-! ## Fetching and shifting (R289 to R298) -/

/-- The nametable fetch address (R290). -/
def nametableAddress (v : BitVec 15) : BitVec 14 := 0x2000 ||| (v &&& 0x0FFF).setWidth 14

/-- The attribute fetch address (R291). -/
def attributeAddress (v : BitVec 15) : BitVec 14 :=
  0x23C0 ||| ((v &&& 0x0C00) ||| ((v >>> 4) &&& 0x38) ||| ((v >>> 2) &&& 0x07)).setWidth 14

/-- The low-plane fetch address (R292); the high plane lies 8 above (R293). -/
def Ppu.patternAddress (p : Ppu) : BitVec 14 :=
  (if p.bgTable then 0x1000 else 0x0000) + (p.ntLatch.setWidth 14 <<< 4) + (fineY p.v).setWidth 14

/-- The 2-bit selector of a tile in its attribute byte (R294, R298): shift count 4 * Y[1] + 2 * X[1]. -/
def attributeSelect (attr : Byte) (y1 x1 : Bool) : BitVec 2 :=
  (attr >>> ((if y1 then 4 else 0) + (if x1 then 2 else 0))).extractLsb' 0 2

/-- ShiftStep (R289). -/
def Ppu.shiftStep (p : Ppu) : Ppu :=
  { p with
    bgLo := p.bgLo <<< 1
    bgHi := p.bgHi <<< 1
    atLo := (p.atLo <<< 1) ||| BitVec.setWidth 8 (BitVec.ofBool p.atBitLo)
    atHi := (p.atHi <<< 1) ||| BitVec.setWidth 8 (BitVec.ofBool p.atBitHi) }

/-- IncCoarseX (R294): coarse X, with the horizontal nametable bit switched at 31. -/
def incCoarseX (v : BitVec 15) : BitVec 15 := if coarseX v = 31 then (v &&& 0x7FE0) ^^^ 0x0400 else v + 1

/-- IncY (R295): fine Y, then coarse Y, with the vertical nametable bit switched at 29. -/
def incY (v : BitVec 15) : BitVec 15 :=
  if (fineY v).toNat < 7 then v + 0x1000
  else if coarseY v = 29 then ((v &&& 0x0FFF) ^^^ 0x0800) &&& 0x7C1F
  else if coarseY v = 31 then (v &&& 0x0FFF) &&& 0x7C1F
  else ((v &&& 0x0FFF) &&& 0x7C1F) ||| ((coarseY v + 1).setWidth 15 <<< 5)

/-- The reload of the shifters and the attribute latches (R294), then IncCoarseX. -/
def Ppu.reload (p : Ppu) : Ppu :=
  let sel := attributeSelect p.atLatch (p.v.getLsbD 6) (p.v.getLsbD 1)
  { p with
    bgLo := (p.bgLo &&& 0xFF00) ||| p.ptLoLatch.setWidth 16
    bgHi := (p.bgHi &&& 0xFF00) ||| p.ptHiLatch.setWidth 16
    atBitLo := sel.getLsbD 0
    atBitHi := sel.getLsbD 1
    v := incCoarseX p.v }

/-- FetchStep (R290 to R294) at cycle `c`. -/
def Ppu.fetchStep (m : Mirroring) (c : Nat) (p : Ppu) : Ppu :=
  match c % 8 with
  | 1 => { p with ntLatch := vramRead m p (nametableAddress p.v) }
  | 3 => { p with atLatch := vramRead m p (attributeAddress p.v) }
  | 5 => { p with ptLoLatch := vramRead m p p.patternAddress }
  | 7 => { p with ptHiLatch := vramRead m p (p.patternAddress + 8) }
  | 0 => p.reload
  | _ => p

/-- CopyHorizontal (R296). -/
def Ppu.copyHorizontal (p : Ppu) : Ppu := { p with v := (p.v &&& 0x7BE0) ||| (p.t &&& 0x041F) }

/-- CopyVertical (R297). -/
def Ppu.copyVertical (p : Ppu) : Ppu := { p with v := (p.v &&& 0x041F) ||| (p.t &&& 0x7BE0) }

/-! ## Pixels (R299 to R301) -/

/-- A 2-bit number from its bits. -/
def twoBits (hi lo : Bool) : BitVec 2 := BitVec.ofBool hi ++ BitVec.ofBool lo

/-- The backdrop colour, `VramRead(0x3F00)[5:0]` (R300, R301). -/
def backdrop (m : Mirroring) (p : Ppu) : BitVec 6 := (vramRead m p 0x3F00).setWidth 6

/-- Colour (R300): pixel value 0 shows the backdrop whatever the palette. -/
def colour (m : Mirroring) (p : Ppu) (pal px : BitVec 2) : BitVec 6 :=
  if px = 0 then backdrop m p
  else (vramRead m p (0x3F00 + (pal.setWidth 14 <<< 2) + px.setWidth 14)).setWidth 6

/-- The pixel value at the head of the background shifters (R299): `fineX` picks the tap; 0 when the background is off. -/
def Ppu.pixel (p : Ppu) : BitVec 2 :=
  if p.bgEnable then twoBits (p.bgHi.getLsbD (15 - p.fineX.toNat)) (p.bgLo.getLsbD (15 - p.fineX.toNat)) else 0

/-- The palette number at the head of the attribute shifters (R299). -/
def Ppu.pixelPalette (p : Ppu) : BitVec 2 :=
  twoBits (p.atHi.getLsbD (7 - p.fineX.toNat)) (p.atLo.getLsbD (7 - p.fineX.toNat))

/-- The index of frame buffer entry (row, column). -/
def fbIndex (row column : Nat) : Nat := 256 * row + column

/-- Store a colour in the frame buffer at the position's row and column `c - 1` (R299, R301). -/
def Ppu.emit (p : Ppu) (colourIndex : BitVec 6) : Ppu :=
  { p with fb := Mem.write p.fb (fbIndex p.scanline (p.cycle - 1)) colourIndex }

/-- EmitPixel (R299). -/
def Ppu.emitPixel (m : Mirroring) (p : Ppu) : Ppu := p.emit (colour m p p.pixelPalette p.pixel)

/-- EmitBackdrop (R301). -/
def Ppu.emitBackdrop (m : Mirroring) (p : Ppu) : Ppu := p.emit (backdrop m p)

/-- Apply a change only when a condition holds. -/
def whenever {α : Type} (c : Bool) (f : α → α) (x : α) : α := if c then f x else x

/-- A position inside the picture: a visible line, cycles 1 to 256 (R280, R299). -/
def visiblePixel (scanline cycle : Nat) : Bool := decide (scanline ≤ 239) && decide (1 ≤ cycle) && decide (cycle ≤ 256)

/-- The rendering part of a cycle on a render line with rendering enabled, without the sprite oracle (R280). -/
def Ppu.renderEnabled (m : Mirroring) (p : Ppu) : Ppu :=
  let s := p.scanline
  let c := p.cycle
  let p := whenever (fetchWindow c) (fun p =>
    let p := whenever (visiblePixel s c) (Ppu.emitPixel m) p
    let p := p.shiftStep
    let p := p.fetchStep m c
    whenever (c == 256) (fun p => { p with v := incY p.v }) p) p
  let p := whenever (c == 257) Ppu.copyHorizontal p
  whenever (s == 261 && decide (280 ≤ c) && decide (c ≤ 304)) Ppu.copyVertical p

/-- SpriteOracle (R305): under `unconstrained` each draw may set either bit; it clears none. -/
def spriteOracle (s : State) : State :=
  match s.launch.spriteOracle with
  | .never => s
  | .unconstrained =>
    { s with
      ppu := { s.ppu with
        sprite0Hit := s.ppu.sprite0Hit || (Config.spriteDraw s.spriteDraws).hit
        spriteOverflow := s.ppu.spriteOverflow || (Config.spriteDraw s.spriteDraws).overflow }
      spriteDraws := s.spriteDraws + 1 }

/-- The rendering part of a cycle (R280): nothing off the render lines, the backdrop when rendering is disabled. -/
def renderStep (s : State) : State :=
  if renderLine s.ppu.scanline then
    if s.ppu.renderingEnabled then
      spriteOracle { s with ppu := s.ppu.renderEnabled s.launch.mirroring }
    else
      { s with ppu := whenever (visiblePixel s.ppu.scanline s.ppu.cycle) (Ppu.emitBackdrop s.launch.mirroring) s.ppu }
  else s

/-- PpuCycle (R280). -/
def ppuCycle (s : State) : State := advancePosition (renderStep (statusEvents s))

/-- The three PPU cycles of a step (R320). -/
def ppuCycles3 (s : State) : State := ppuCycle (ppuCycle (ppuCycle s))

end Sys2Proof.Machine
end

