-- ==== Sys2Proof/Machine/Orchestrator.lean ====
section
/-!
DEFINITION. Fetching an instruction (R130 of spec/40_addressing_modes.md, R105 of spec/30_encoding.md), the CPU cycle-step and
the step of the whole machine (R320, R321, R324 of spec/55_clock_orchestrator.md).
-/
namespace Sys2Proof.Machine

/-! ## Fetch -/

/-- Read the byte at PC, then advance PC (R105, R25). -/
def fetchByte (s : State) : Res Byte :=
  (memRead s.pc s).bind fun b s => .ok b { s with pc := s.pc + 1 }

/-- Advance PC past an immediate operand, then read it at its effective address (R135). -/
def fetchImmediate (s : State) : Res Byte :=
  memRead s.pc { s with pc := s.pc + 1 }

/-- Fetch the opcode at PC and the operand bytes of its mode (R130). A byte without table entry raises UnsupportedOpcode with
the address it was fetched from (R340). When this answers an instruction, PC is the address of the next one. -/
def fetch (s : State) : Res Instr :=
  (fetchByte s).bind fun op s' =>
    match formOf op with
    | none => .raised (.unsupportedOpcode s.pc op) s'
    | some (.f1 i) => .ok i s'
    | some (.f2imm mk) => (fetchImmediate s').bind fun b s => .ok (mk b) s
    | some (.f2 mk) => (fetchByte s').bind fun b s => .ok (mk b) s
    | some (.f3 mk) => (fetchByte s').bind fun lo s => (fetchByte s).bind fun hi s => .ok (mk (leWord lo hi)) s

/-! ## The CPU cycle-step (R321) -/

/-- An instruction-step: fetch one instruction and run it (R130). -/
def instructionStep (s : State) : Host.Outcome State Fault Refusal :=
  match fetch s with
  | .ok i s => exec i s
  | .raised f s => .next { s with fault := some f }

/-- NMI taken at an instruction boundary (R321, R336). -/
def nmiStep (s : State) : Host.Outcome State Fault Refusal :=
  Res.outcome ((nmiEntry s).bind fun _ s => .ok () { s with cyclesRemaining := s.launch.nmiCycles })

/-- What a cycle-step begins, before it counts one cycle down: nothing while cycles are owed, else a pending NMI, else the
next instruction (R321, R334, R344). -/
def beginCycle (s : State) : Host.Outcome State Fault Refusal :=
  if s.cyclesRemaining = 0 then
    if s.nmiPending then nmiStep s else instructionStep s
  else .next s

/-- One owed cycle-step is spent (R321). -/
def countDown (s : State) : State := { s with cyclesRemaining := s.cyclesRemaining - 1 }

/-- The end of a step (R320, R324): after a raise nothing more runs; else one cycle is counted down and the PPU runs three
cycles. -/
def endStep (s : State) : State :=
  match s.fault with
  | some _ => s
  | none => ppuCycles3 (countDown s)

/-- One step of the whole machine (R320, R324): a state that holds a fault has no successor. -/
def machineStep (s : State) : Host.Outcome State Fault Refusal :=
  match s.fault with
  | some f => .fault f
  | none =>
    match beginCycle s with
    | .next s' => .next (endStep s')
    | .fault f => .fault f
    | .refused r => .refused r

/-! ## Placing an instruction where the next step fetches it -/

/-- Store a byte in plain storage; a register window or 0x4014 is left alone. -/
def pokeByte (a : Word) (d : Byte) (s : State) : State :=
  match s.target a with
  | .ram i => { s with ram := Mem.write s.ram i d }
  | .ext i => { s with ext := Mem.write s.ext i d }
  | .ppu _ | .oamDma => s

/-- Store bytes at consecutive addresses. -/
def pokeBytes (a : Word) (bytes : List Byte) (s : State) : State :=
  match bytes with
  | [] => s
  | b :: rest => pokeBytes (a + 1) rest (pokeByte a b s)

/-- Whether the three bytes from an address are plain storage. -/
def placeable (s : State) (a : Word) : Bool :=
  (s.peek a).isSome && (s.peek (a + 1)).isSome && (s.peek (a + 2)).isSome

/-- The state whose next step fetches and runs the given bytes (log entry 6): an instruction boundary with no NMI pending and
no fault, the bytes stored at PC; PC is first moved to 0x8000 where the bytes at PC are not plain storage. -/
def placeInstruction (s : State) (bytes : List Byte) : State :=
  let s := { s with cyclesRemaining := 0, nmiPending := false, fault := none }
  let s := if placeable s s.pc then s else { s with pc := 0x8000 }
  pokeBytes s.pc bytes s

end Sys2Proof.Machine
end

