-- ==== Sys2Proof/Machine/Step.lean ====
section
/-!
DEFINITION. The step of the machine (R320 of spec/55_clock_orchestrator.md), and the host's aid for its checks.
-/
namespace Sys2Proof.Machine

/-- `step()` (R320). -/
def step (s : State) : Host.Outcome State Fault Refusal := machineStep s

/-- The state whose very next step fetches and runs the instruction with bits `w` (log entry 6). -/
def State.withFetchWord (s : State) (nbits w : Nat) : State := placeInstruction s (tableBytes nbits w)

end Sys2Proof.Machine
end

