-- ==== Sys2Proof/Machine/HostInterface.lean ====
section
/-!
DEFINITION. What the host may do between steps (R323, R325, R326 of spec/55_clock_orchestrator.md): `powerUp()`, `ackFrame()`,
the register window (R35), and the rendering queries (R306 to R309 of spec/51_ppu_rendering.md). None of it is part of `step`.
-/
namespace Sys2Proof.Machine

/-! ## Power-up (R57, R323, R332) -/

/-- The machine after `Clear` with the given launch parameters (R57, R323). The count of oracle draws, the model's own field,
starts at 0 (DESIGN CHOICE, log entry 7). -/
def clear (l : Launch) : State where
  a := 0
  x := 0
  y := 0
  sp := 0
  pc := 0
  p := Flags.ofByte 0x20
  nmiPending := false
  cyclesRemaining := 0
  fault := none
  ram := []
  ext := l.ext0
  ppu := Ppu.cleared l.chr0
  frameComplete := false
  spriteDraws := 0
  launch := l

/-- CpuReset (R332): SP, P, PC from the reset vector, no NMI pending, the reset cycles owed. Alone it is the warm reset of
R323. -/
def cpuReset (s : State) : Res Unit :=
  (memRead16 resetVector { s with sp := 0xFD, p := Flags.ofByte 0x24 }).bind fun target s =>
    .ok () { s with pc := target, nmiPending := false, cyclesRemaining := s.launch.resetCycles }

/-- `powerUp()` (R323): Clear, then CpuReset. -/
def powerUp (l : Launch) : Host.Outcome State Fault Refusal := Res.outcome (cpuReset (clear l))

/-- A full reset of a running machine (R323): `powerUp()` with the launch parameters it was given. The count of oracle draws
goes on, so that the draws after it are new ones and not those of the first run (DESIGN CHOICE, log entry 7). -/
def State.powerUpAgain (s : State) : Host.Outcome State Fault Refusal :=
  Res.outcome (cpuReset { clear s.launch with spriteDraws := s.spriteDraws })

/-! ## Handshake and window (R325, R35) -/

/-- `ackFrame()` (R325). -/
def State.ackFrame (s : State) : State := { s with frameComplete := false }

/-- The CPU register window (R35). -/
structure RegisterWindow where
  pc : Word
  a : Byte
  x : Byte
  y : Byte
  p : Byte
  sp : Byte
  deriving DecidableEq, Repr

/-- Read the register window, without side effects (R35, R326). -/
def State.registerWindow (s : State) : RegisterWindow :=
  { pc := s.pc, a := s.a, x := s.x, y := s.y, p := s.p.toByte, sp := s.sp }

/-- The frame buffer entry at a row and a column (R54, R301, R326). -/
def State.framePixel (s : State) (row column : Nat) : BitVec 6 := Mem.read s.ppu.fb (fbIndex row column)

/-! ## Rendering queries (R306 to R309) -/

/-- One pixel of a tile row from its two plane bytes (R306): column 0 is the most significant bit. -/
def tilePixel (lo hi : Byte) (x : Nat) : BitVec 2 := twoBits (hi.getLsbD (7 - x)) (lo.getLsbD (7 - x))

/-- A tile row from its two plane bytes (R306), left to right. -/
def tileRow (lo hi : Byte) : List (BitVec 2) := (List.range 8).map (tilePixel lo hi)

/-- TileAt, and TileByAddress (R306, R307): 8 rows of 8 pixels. -/
def tileAt (s : State) (a : BitVec 14) : List (List (BitVec 2)) :=
  (List.range 8).map fun r =>
    tileRow (vramRead s.launch.mirroring s.ppu (a + BitVec.ofNat 14 r))
      (vramRead s.launch.mirroring s.ppu (a + BitVec.ofNat 14 r + 8))

/-- TileByIndex (R307): `side` false is the pattern table at 0x0000, true the one at 0x1000. -/
def tileByIndex (s : State) (i : Byte) (side : Bool) : List (List (BitVec 2)) :=
  tileAt s ((if side then 0x1000 else 0x0000) + (i.setWidth 14 <<< 4))

/-- Whether an address is that of a nametable tile byte (R308). -/
def isNametableTile (n : Nat) : Bool := decide (0x2000 ≤ n) && decide (n ≤ 0x2FFF) && decide (n % 0x400 < 0x3C0)

/-- The attribute byte's address of a nametable tile byte (R308). -/
def paletteSelectAddress (n : Nat) : BitVec 14 :=
  (BitVec.ofNat 14 n &&& 0x2C00) ||| 0x03C0 ||| BitVec.ofNat 14 (n % 0x400 / 32 / 4 * 8) |||
    BitVec.ofNat 14 (n % 0x400 % 32 / 4)

/-- PaletteSelect (R308): the 2-bit palette number of a tile; refused for an address that is no tile byte (U31). -/
def paletteSelect (s : State) (n : Nat) : Except Refusal (BitVec 2) :=
  if isNametableTile n then
    .ok (attributeSelect (vramRead s.launch.mirroring s.ppu (paletteSelectAddress n))
      ((n % 0x400 / 32).testBit 1) ((n % 0x400 % 32).testBit 1))
  else .error (.notANametableTile n)

/-- Rgb (R309): reported to the caller, never clamped, when the index is above 63 (R342). -/
def rgb (i : Nat) : Except Fault RgbTriple :=
  if 63 < i then .error (.paletteIndexOutOfRange i) else .ok (Config.rgbTable (BitVec.ofNat 6 i))

end Sys2Proof.Machine
end

