-- ==== Sys2Proof/Safety.lean ====
section
/-!
DEFINITION. The vocabulary of the claims: what a good state is (R58 of spec/10_state.md), which addresses can be read and
written (R73 of spec/20_memory.md, R252 of spec/50_ppu_registers.md), the effective address of each addressing mode as a
value (R136 to R145 of spec/40_addressing_modes.md), and which instructions of the table have which shape.
-/
namespace Sys2Proof.Machine

/-! ## Good states -/

/-- The PPU's part of `State.wf` (R58): the position in range, every memory in canonical form and of its own size. -/
def Ppu.wf (p : Ppu) : Bool :=
  decide (p.scanline ≤ 261) && decide (p.cycle ≤ 340)
    && Mem.wf 256 p.oam && Mem.wf 32 p.secondaryOam && Mem.wf 2048 p.nt && Mem.wf 32 p.pal && Mem.wf 8192 p.chr
    && Mem.wf 61440 p.fb

/-- A fault that a step may store (R34, R342): any but the host query's. -/
def storableFault : Option Fault → Bool
  | some (.paletteIndexOutOfRange _) => false
  | some (.unsupportedOpcode _ _) | some (.invalidRegisterAccess _ _) | none => true

/-- The invariant of the machine (R58, R31, R34): U = 1, B = 0, no fault but a step's own, the position in range, and every
memory in canonical form and of its own size. The widths of the registers are in their types. -/
def State.wf (s : State) : Bool :=
  s.p.u && !s.p.b && storableFault s.fault && Mem.wf 2048 s.ram && Mem.wf 65536 s.ext && s.ppu.wf

/-- A run is safe while no fault is recorded (R34). -/
def State.safe (s : State) : Bool := s.fault.isNone

/-- An instruction boundary (R322): no fault, no cycle owed, no NMI pending. -/
def State.atBoundary (s : State) : Bool := s.fault.isNone && s.cyclesRemaining == 0 && !s.nmiPending

/-! ## Readable and writable addresses -/

/-- Plain storage: `RAM` or `EXT` (R61). -/
def State.plain (s : State) (a : Word) : Bool := (s.peek a).isSome

/-- The byte of plain storage at an address (0 where the address is not plain storage). -/
def State.byteAt (s : State) (a : Word) : Byte := (s.peek a).getD 0

/-- MemRead of the address raises nothing (R73, R252): plain storage, or register index 2, 4 or 7. -/
def State.readable (s : State) (a : Word) : Bool :=
  match s.target a with
  | .ram _ | .ext _ => true
  | .ppu index => index == 2 || index == 4 || index == 7
  | .oamDma => false

/-- MemWrite of the address stores to plain storage or to a register that has a write (R252): every index but 2. The DMA
trigger 0x4014 is apart. -/
def State.writable (s : State) (a : Word) : Bool :=
  match s.target a with
  | .ram _ | .ext _ => true
  | .ppu index => index != 2
  | .oamDma => false

/-- The byte a CPU read of a readable address gives (R68, R254 to R256); 0 where the address is not readable. -/
def State.readByte (s : State) (a : Word) : Byte :=
  match s.target a with
  | .ram i => Mem.read s.ram i
  | .ext i => Mem.read s.ext i
  | .ppu index =>
    if index = 2 then s.ppu.statusByte
    else if index = 4 then s.ppu.oamData
    else if index = 7 then s.ppu.vramData s.launch.mirroring
    else 0
  | .oamDma => 0

/-- The machine after a CPU read of a readable address: only a read of register index 2 or 7 changes it (R73). -/
def State.afterRead (s : State) (a : Word) : State :=
  match s.target a with
  | .ppu index =>
    if index = 2 then { s with ppu := s.ppu.afterStatusRead }
    else if index = 7 then { s with ppu := s.ppu.afterDataRead s.launch.ppudataReadIncrement }
    else s
  | .ram _ | .ext _ | .oamDma => s

/-- The machine after a CPU write of a writable address (R69, R257 to R263). -/
def State.afterWrite (s : State) (a : Word) (d : Byte) : State :=
  match s.target a with
  | .ram i => { s with ram := Mem.write s.ram i d }
  | .ext i => { s with ext := Mem.write s.ext i d }
  | .ppu index =>
    match ppuRegWrite s.launch index d s.ppu with
    | some p => { s with ppu := p }
    | none => s
  | .oamDma => s

/-- A DMA source page of plain storage throughout (R265). -/
def State.plainPage (s : State) (page : Byte) : Prop := ∀ i : Byte, s.plain (leWord i page) = true

/-- The canonical address InvalidRegisterAccess reports (R341): 0x2000 + (a mod 8), or the address itself for 0x4014. -/
def canonicalAddress (s : State) (a : Word) : Word :=
  match s.target a with
  | .ppu index => registerAddress index
  | .ram _ | .ext _ | .oamDma => a

/-! ## Fetched bytes as values -/

/-- The machine after the byte at PC was fetched (R105): with what that read changes (R73), and PC past it. -/
def State.afterByte (s : State) : State := { s.afterRead s.pc with pc := s.pc + 1 }

/-- The next `n` instruction bytes can be read (R105, R341), each after the reads before it. -/
def State.fetchable (s : State) (n : Nat) : Bool :=
  match n with
  | 0 => true
  | n + 1 => s.readable s.pc && s.afterByte.fetchable n

/-- The next `n` instruction bytes (R105). -/
def State.fetchedBytes (s : State) (n : Nat) : List Byte :=
  match n with
  | 0 => []
  | n + 1 => s.readByte s.pc :: s.afterByte.fetchedBytes n

/-- The machine after the next `n` instruction bytes were fetched (R105). -/
def State.afterFetch (s : State) (n : Nat) : State :=
  match n with
  | 0 => s
  | n + 1 => s.afterByte.afterFetch n

/-! ## Effective addresses as values -/

/-- The zero-page pointer at `p` (R144, R145). -/
def pointerAt (s : State) (p : Byte) : Word := leWord (s.byteAt (zext16 p)) (s.byteAt (zext16 (p + 1)))

/-- The effective address and page-cross flag of an operand form (R136 to R138, R140 to R142, R144, R145). -/
def effective (s : State) : Addr → Resolved
  | .zp z => ⟨zext16 z, false⟩
  | .zpx z => ⟨zext16 (z + s.x), false⟩
  | .zpy z => ⟨zext16 (z + s.y), false⟩
  | .abs a => ⟨a, false⟩
  | .absx a => ⟨a + zext16 s.x, pageCross a (a + zext16 s.x)⟩
  | .absy a => ⟨a + zext16 s.y, pageCross a (a + zext16 s.y)⟩
  | .indx z => ⟨pointerAt s (z + s.x), false⟩
  | .indy z => ⟨pointerAt s z + zext16 s.y, pageCross (pointerAt s z) (pointerAt s z + zext16 s.y)⟩

/-- The operand of an instruction can be read. -/
def Source.readable (src : Source) (s : State) : Bool :=
  match src with
  | .imm _ => true
  | .mem m => s.readable (effective s m).ea

/-- The operand of an instruction. -/
def Source.value (src : Source) (s : State) : Byte :=
  match src with
  | .imm m => m
  | .mem m => s.readByte (effective s m).ea

/-- The machine after the operand was read. -/
def Source.after (src : Source) (s : State) : State :=
  match src with
  | .imm _ => s
  | .mem m => s.afterRead (effective s m).ea

/-- Whether the operand's indexed address crosses a page (R146). -/
def Source.crossed (src : Source) (s : State) : Bool :=
  match src with
  | .imm _ => false
  | .mem m => (effective s m).crossed

/-- Where the high byte of an indirect jump's target is read (R143): the pointer's low byte wraps, its high byte stays. -/
def pointerHigh (ptr : Word) : Word := leWord (loByte ptr + 1) (hiByte ptr)

/-! ## The stack as values -/

/-- Bytes pushed one after another (R170): each at 0x0100 + SP, SP counting down mod 256. -/
def State.pushed (bytes : List Byte) (s : State) : State :=
  match bytes with
  | [] => s
  | d :: rest => State.pushed rest { pokeByte (stackAddress s.sp) d s with sp := s.sp - 1 }

/-- The byte the k-th pull from now gives, k counted from 1 (R171): at 0x0100 + ((SP + k) mod 256). -/
def State.stacked (s : State) (k : Byte) : Byte := s.byteAt (stackAddress (s.sp + k))

/-- The little-endian word at an address of plain storage (R12, R70). -/
def State.wordAt (s : State) (a : Word) : Word := leWord (s.byteAt a) (s.byteAt (a + 1))

/-! ## Opcode bytes without an instruction -/

/-- The 105 opcode bytes without table entry, in the order R114 prints them. -/
def undocumentedOpcodes : List Byte :=
  [0x02, 0x03, 0x04, 0x07, 0x0B, 0x0C, 0x0F, 0x12, 0x13, 0x14, 0x17, 0x1A, 0x1B, 0x1C, 0x1F]
  ++ [0x22, 0x23, 0x27, 0x2B, 0x2F, 0x32, 0x33, 0x34, 0x37, 0x3A, 0x3B, 0x3C, 0x3F, 0x42, 0x43, 0x44, 0x47, 0x4B]
  ++ [0x4F, 0x52, 0x53, 0x54, 0x57, 0x5A, 0x5B, 0x5C, 0x5F, 0x62, 0x63, 0x64, 0x67]
  ++ [0x6B, 0x6F, 0x72, 0x73, 0x74, 0x77, 0x7A, 0x7B, 0x7C, 0x7F, 0x80, 0x82, 0x83, 0x87, 0x89, 0x8B, 0x8F, 0x92]
  ++ [0x93, 0x97, 0x9B, 0x9C, 0x9E, 0x9F, 0xA3, 0xA7, 0xAB, 0xAF, 0xB2, 0xB3, 0xB7]
  ++ [0xBB, 0xBF, 0xC2, 0xC3, 0xC7, 0xCB, 0xCF, 0xD2, 0xD3, 0xD4, 0xD7, 0xDA, 0xDB, 0xDC, 0xDF, 0xE2, 0xE3, 0xE7]
  ++ [0xEB, 0xEF, 0xF2, 0xF3, 0xF4, 0xF7, 0xFA, 0xFB, 0xFC, 0xFF]

/-! ## Instructions by shape -/

/-- LDA, LDX, LDY (R150 to R152): the register loaded and the operand. -/
def loadForm : Instr → Option (Reg × Source)
  | .ldaImm m => some (.a, (.imm m))
  | .ldaZp z => some (.a, (.mem (.zp z)))
  | .ldaZpx z => some (.a, (.mem (.zpx z)))
  | .ldaAbs a => some (.a, (.mem (.abs a)))
  | .ldaAbsx a => some (.a, (.mem (.absx a)))
  | .ldaAbsy a => some (.a, (.mem (.absy a)))
  | .ldaIndx z => some (.a, (.mem (.indx z)))
  | .ldaIndy z => some (.a, (.mem (.indy z)))
  | .ldxImm m => some (.x, (.imm m))
  | .ldxZp z => some (.x, (.mem (.zp z)))
  | .ldxZpy z => some (.x, (.mem (.zpy z)))
  | .ldxAbs a => some (.x, (.mem (.abs a)))
  | .ldxAbsy a => some (.x, (.mem (.absy a)))
  | .ldyImm m => some (.y, (.imm m))
  | .ldyZp z => some (.y, (.mem (.zp z)))
  | .ldyZpx z => some (.y, (.mem (.zpx z)))
  | .ldyAbs a => some (.y, (.mem (.abs a)))
  | .ldyAbsx a => some (.y, (.mem (.absx a)))
  | _ => none

/-- STA, STX, STY (R153 to R155): the register stored and the operand. -/
def storeForm : Instr → Option (Reg × Addr)
  | .staZp z => some (.a, (.zp z))
  | .staZpx z => some (.a, (.zpx z))
  | .staAbs a => some (.a, (.abs a))
  | .staAbsx a => some (.a, (.absx a))
  | .staAbsy a => some (.a, (.absy a))
  | .staIndx z => some (.a, (.indx z))
  | .staIndy z => some (.a, (.indy z))
  | .stxZp z => some (.x, (.zp z))
  | .stxZpy z => some (.x, (.zpy z))
  | .stxAbs a => some (.x, (.abs a))
  | .styZp z => some (.y, (.zp z))
  | .styZpx z => some (.y, (.zpx z))
  | .styAbs a => some (.y, (.abs a))
  | _ => none

/-- TAX, TAY, TXA, TYA (R156 to R159): the target and the source register. -/
def transferForm : Instr → Option (Reg × Reg)
  | .tax => some (.x, .a)
  | .tay => some (.y, .a)
  | .txa => some (.a, .x)
  | .tya => some (.a, .y)
  | _ => none

/-- The three bitwise operations (R180 to R182). -/
inductive LogicOp where
  | and
  | ora
  | eor
  deriving DecidableEq, Repr

/-- The result of a bitwise operation (R180 to R182). -/
def LogicOp.apply (op : LogicOp) (a m : Byte) : Byte :=
  match op with
  | .and => a &&& m
  | .ora => a ||| m
  | .eor => a ^^^ m

/-- AND, ORA, EOR (R180 to R182): the operation and the operand. -/
def logicForm : Instr → Option (LogicOp × Source)
  | .andImm m => some (.and, (.imm m))
  | .andZp z => some (.and, (.mem (.zp z)))
  | .andZpx z => some (.and, (.mem (.zpx z)))
  | .andAbs a => some (.and, (.mem (.abs a)))
  | .andAbsx a => some (.and, (.mem (.absx a)))
  | .andAbsy a => some (.and, (.mem (.absy a)))
  | .andIndx z => some (.and, (.mem (.indx z)))
  | .andIndy z => some (.and, (.mem (.indy z)))
  | .oraImm m => some (.ora, (.imm m))
  | .oraZp z => some (.ora, (.mem (.zp z)))
  | .oraZpx z => some (.ora, (.mem (.zpx z)))
  | .oraAbs a => some (.ora, (.mem (.abs a)))
  | .oraAbsx a => some (.ora, (.mem (.absx a)))
  | .oraAbsy a => some (.ora, (.mem (.absy a)))
  | .oraIndx z => some (.ora, (.mem (.indx z)))
  | .oraIndy z => some (.ora, (.mem (.indy z)))
  | .eorImm m => some (.eor, (.imm m))
  | .eorZp z => some (.eor, (.mem (.zp z)))
  | .eorZpx z => some (.eor, (.mem (.zpx z)))
  | .eorAbs a => some (.eor, (.mem (.abs a)))
  | .eorAbsx a => some (.eor, (.mem (.absx a)))
  | .eorAbsy a => some (.eor, (.mem (.absy a)))
  | .eorIndx z => some (.eor, (.mem (.indx z)))
  | .eorIndy z => some (.eor, (.mem (.indy z)))
  | _ => none

/-- BIT (R183): the operand. -/
def bitForm : Instr → Option (Source)
  | .bitZp z => some (.mem (.zp z))
  | .bitAbs a => some (.mem (.abs a))
  | _ => none

/-- ADC (R184): the operand. -/
def adcForm : Instr → Option (Source)
  | .adcImm m => some (.imm m)
  | .adcZp z => some (.mem (.zp z))
  | .adcZpx z => some (.mem (.zpx z))
  | .adcAbs a => some (.mem (.abs a))
  | .adcAbsx a => some (.mem (.absx a))
  | .adcAbsy a => some (.mem (.absy a))
  | .adcIndx z => some (.mem (.indx z))
  | .adcIndy z => some (.mem (.indy z))
  | _ => none

/-- SBC (R185): the operand. -/
def sbcForm : Instr → Option (Source)
  | .sbcImm m => some (.imm m)
  | .sbcZp z => some (.mem (.zp z))
  | .sbcZpx z => some (.mem (.zpx z))
  | .sbcAbs a => some (.mem (.abs a))
  | .sbcAbsx a => some (.mem (.absx a))
  | .sbcAbsy a => some (.mem (.absy a))
  | .sbcIndx z => some (.mem (.indx z))
  | .sbcIndy z => some (.mem (.indy z))
  | _ => none

/-- CMP, CPX, CPY (R188 to R190): the register and the operand. -/
def compareForm : Instr → Option (Reg × Source)
  | .cmpImm m => some (.a, (.imm m))
  | .cmpZp z => some (.a, (.mem (.zp z)))
  | .cmpZpx z => some (.a, (.mem (.zpx z)))
  | .cmpAbs a => some (.a, (.mem (.abs a)))
  | .cmpAbsx a => some (.a, (.mem (.absx a)))
  | .cmpAbsy a => some (.a, (.mem (.absy a)))
  | .cmpIndx z => some (.a, (.mem (.indx z)))
  | .cmpIndy z => some (.a, (.mem (.indy z)))
  | .cpxImm m => some (.x, (.imm m))
  | .cpxZp z => some (.x, (.mem (.zp z)))
  | .cpxAbs a => some (.x, (.mem (.abs a)))
  | .cpyImm m => some (.y, (.imm m))
  | .cpyZp z => some (.y, (.mem (.zp z)))
  | .cpyAbs a => some (.y, (.mem (.abs a)))
  | _ => none

/-- INC (R201): the operand. -/
def incForm : Instr → Option (Addr)
  | .incZp z => some (.zp z)
  | .incZpx z => some (.zpx z)
  | .incAbs a => some (.abs a)
  | .incAbsx a => some (.absx a)
  | _ => none

/-- DEC (R204): the operand. -/
def decForm : Instr → Option (Addr)
  | .decZp z => some (.zp z)
  | .decZpx z => some (.zpx z)
  | .decAbs a => some (.abs a)
  | .decAbsx a => some (.absx a)
  | _ => none

/-- INX, INY, DEX, DEY (R202, R203, R205, R206): the register, and whether it is incremented. -/
def stepRegForm : Instr → Option (Reg × Bool)
  | .inx => some (.x, true)
  | .iny => some (.y, true)
  | .dex => some (.x, false)
  | .dey => some (.y, false)
  | _ => none

/-- The four shifts (R207 to R210). -/
inductive ShiftOp where
  | asl
  | lsr
  | rol
  | ror
  deriving DecidableEq, Repr

/-- The accumulator forms of ASL, LSR, ROL, ROR (R207 to R210): the operation. -/
def shiftAccForm : Instr → Option ShiftOp
  | .aslAcc => some .asl
  | .lsrAcc => some .lsr
  | .rolAcc => some .rol
  | .rorAcc => some .ror
  | _ => none

/-- The memory forms of ASL, LSR, ROL, ROR (R207 to R210): the operation and the operand. -/
def shiftMemForm : Instr → Option (ShiftOp × Addr)
  | .aslZp z => some (.asl, .zp z)
  | .aslZpx z => some (.asl, .zpx z)
  | .aslAbs a => some (.asl, .abs a)
  | .aslAbsx a => some (.asl, .absx a)
  | .lsrZp z => some (.lsr, .zp z)
  | .lsrZpx z => some (.lsr, .zpx z)
  | .lsrAbs a => some (.lsr, .abs a)
  | .lsrAbsx a => some (.lsr, .absx a)
  | .rolZp z => some (.rol, .zp z)
  | .rolZpx z => some (.rol, .zpx z)
  | .rolAbs a => some (.rol, .abs a)
  | .rolAbsx a => some (.rol, .absx a)
  | .rorZp z => some (.ror, .zp z)
  | .rorZpx z => some (.ror, .zpx z)
  | .rorAbs a => some (.ror, .abs a)
  | .rorAbsx a => some (.ror, .absx a)
  | _ => none

/-- The result of a shift or rotate as a number (R207 to R210), from the operand and the old carry. -/
def ShiftOp.result (op : ShiftOp) (m : Byte) (c : Bool) : Byte :=
  match op with
  | .asl => BitVec.ofNat 8 (2 * m.toNat % 256)
  | .lsr => BitVec.ofNat 8 (m.toNat / 2)
  | .rol => BitVec.ofNat 8 (2 * m.toNat % 256 + carryNat c)
  | .ror => BitVec.ofNat 8 (m.toNat / 2 + 128 * carryNat c)

/-- The carry a shift or rotate leaves (R207 to R210): the bit that leaves the operand. -/
def ShiftOp.carry (op : ShiftOp) (m : Byte) : Bool :=
  match op with
  | .asl | .rol => decide (128 ≤ m.toNat)
  | .lsr | .ror => decide (m.toNat % 2 = 1)

/-- The branches (R226 to R233): whether the branch is taken under the flags, and its offset byte. -/
def branchForm (p : Flags) : Instr → Option (Bool × Byte)
  | .bcc d => some (!p.c, d)
  | .bcs d => some (p.c, d)
  | .beq d => some (p.z, d)
  | .bne d => some (!p.z, d)
  | .bmi d => some (p.n, d)
  | .bpl d => some (!p.n, d)
  | .bvc d => some (!p.v, d)
  | .bvs d => some (p.v, d)
  | _ => none

/-- The flag instructions (R240 to R246): the flags after them. -/
def flagForm (p : Flags) : Instr → Option Flags
  | .clc => some { p with c := false }
  | .sec => some { p with c := true }
  | .cli => some { p with i := false }
  | .sei => some { p with i := true }
  | .clv => some { p with v := false }
  | .cld => some { p with d := false }
  | .sed => some { p with d := true }
  | _ => none

/-- The memory operand of a read-modify-write instruction (R200). -/
def modifyForm (i : Instr) : Option Addr := (incForm i).or ((decForm i).or ((shiftMemForm i).map Prod.snd))

/-- The stack addresses an instruction pushes to (R172, R173, R221, R223). -/
def pushAddresses (s : State) (i : Instr) : List Word :=
  match i.mnemonic with
  | .pha | .php => [stackAddress s.sp]
  | .jsr => [stackAddress s.sp, stackAddress (s.sp - 1)]
  | .brk => [stackAddress s.sp, stackAddress (s.sp - 1), stackAddress (s.sp - 2)]
  | _ => []

/-- The addresses an instruction stores to (R153 to R155, R170 to R173, R200, R221, R223), computed before it runs. -/
def storeAddresses (s : State) (i : Instr) : List Word :=
  match storeForm i with
  | some (_, m) => [(effective s m).ea]
  | none =>
    match modifyForm i with
    | some m => [(effective s m).ea]
    | none => pushAddresses s i

/-- The operand of every instruction that reads a data byte from memory (R150 to R152, R180 to R185, R188 to R190, R201, R204,
R207 to R210). -/
def dataReadForm : Instr → Option Addr
  | .ldaZp z => some (.zp z)
  | .ldaZpx z => some (.zpx z)
  | .ldaAbs a => some (.abs a)
  | .ldaAbsx a => some (.absx a)
  | .ldaAbsy a => some (.absy a)
  | .ldaIndx z => some (.indx z)
  | .ldaIndy z => some (.indy z)
  | .ldxZp z => some (.zp z)
  | .ldxZpy z => some (.zpy z)
  | .ldxAbs a => some (.abs a)
  | .ldxAbsy a => some (.absy a)
  | .ldyZp z => some (.zp z)
  | .ldyZpx z => some (.zpx z)
  | .ldyAbs a => some (.abs a)
  | .ldyAbsx a => some (.absx a)
  | .andZp z => some (.zp z)
  | .andZpx z => some (.zpx z)
  | .andAbs a => some (.abs a)
  | .andAbsx a => some (.absx a)
  | .andAbsy a => some (.absy a)
  | .andIndx z => some (.indx z)
  | .andIndy z => some (.indy z)
  | .oraZp z => some (.zp z)
  | .oraZpx z => some (.zpx z)
  | .oraAbs a => some (.abs a)
  | .oraAbsx a => some (.absx a)
  | .oraAbsy a => some (.absy a)
  | .oraIndx z => some (.indx z)
  | .oraIndy z => some (.indy z)
  | .eorZp z => some (.zp z)
  | .eorZpx z => some (.zpx z)
  | .eorAbs a => some (.abs a)
  | .eorAbsx a => some (.absx a)
  | .eorAbsy a => some (.absy a)
  | .eorIndx z => some (.indx z)
  | .eorIndy z => some (.indy z)
  | .bitZp z => some (.zp z)
  | .bitAbs a => some (.abs a)
  | .adcZp z => some (.zp z)
  | .adcZpx z => some (.zpx z)
  | .adcAbs a => some (.abs a)
  | .adcAbsx a => some (.absx a)
  | .adcAbsy a => some (.absy a)
  | .adcIndx z => some (.indx z)
  | .adcIndy z => some (.indy z)
  | .sbcZp z => some (.zp z)
  | .sbcZpx z => some (.zpx z)
  | .sbcAbs a => some (.abs a)
  | .sbcAbsx a => some (.absx a)
  | .sbcAbsy a => some (.absy a)
  | .sbcIndx z => some (.indx z)
  | .sbcIndy z => some (.indy z)
  | .cmpZp z => some (.zp z)
  | .cmpZpx z => some (.zpx z)
  | .cmpAbs a => some (.abs a)
  | .cmpAbsx a => some (.absx a)
  | .cmpAbsy a => some (.absy a)
  | .cmpIndx z => some (.indx z)
  | .cmpIndy z => some (.indy z)
  | .cpxZp z => some (.zp z)
  | .cpxAbs a => some (.abs a)
  | .cpyZp z => some (.zp z)
  | .cpyAbs a => some (.abs a)
  | .incZp z => some (.zp z)
  | .incZpx z => some (.zpx z)
  | .incAbs a => some (.abs a)
  | .incAbsx a => some (.absx a)
  | .decZp z => some (.zp z)
  | .decZpx z => some (.zpx z)
  | .decAbs a => some (.abs a)
  | .decAbsx a => some (.absx a)
  | .aslZp z => some (.zp z)
  | .aslZpx z => some (.zpx z)
  | .aslAbs a => some (.abs a)
  | .aslAbsx a => some (.absx a)
  | .lsrZp z => some (.zp z)
  | .lsrZpx z => some (.zpx z)
  | .lsrAbs a => some (.abs a)
  | .lsrAbsx a => some (.absx a)
  | .rolZp z => some (.zp z)
  | .rolZpx z => some (.zpx z)
  | .rolAbs a => some (.abs a)
  | .rolAbsx a => some (.absx a)
  | .rorZp z => some (.zp z)
  | .rorZpx z => some (.zpx z)
  | .rorAbs a => some (.abs a)
  | .rorAbsx a => some (.absx a)
  | _ => none

/-! ## Cycle counts in closed form (R113) -/

end Sys2Proof.Machine

namespace Sys2Proof

/-- The base count of a store (R113): what a reading instruction takes, with the extra cycle of an indexed address built in. -/
def Mode.storeCycles : Mode → Nat
  | .impl | .acc | .imm | .rel => 2
  | .zp => 3
  | .zpx | .zpy | .abs => 4
  | .absx | .absy | .ind => 5
  | .indx | .indy => 6

/-- The base count of an instruction that reads its operand, or has none (R113). -/
def Mode.readCycles : Mode → Nat
  | .impl | .acc | .imm | .rel => 2
  | .zp => 3
  | .zpx | .zpy | .abs | .absx | .absy => 4
  | .ind | .indy => 5
  | .indx => 6

/-- The base count of a read-modify-write instruction (R113): two cycles more than a store in the same mode, but for `A`. -/
def Mode.modifyCycles (md : Mode) : Nat := if md = .acc then 2 else md.storeCycles + 2

/-- The base count R113 prints for an instruction. -/
def Instr.baseCycles (i : Instr) : Nat :=
  match i.mnemonic with
  | .brk => 7
  | .jsr | .rts | .rti => 6
  | .pla | .plp => 4
  | .pha | .php => 3
  | .jmp => if i.mode = .ind then 5 else 3
  | .sta | .stx | .sty => i.mode.storeCycles
  | .inc | .dec | .asl | .lsr | .rol | .ror => i.mode.modifyCycles
  | _ => i.mode.readCycles

/-- The instructions that cost one cycle more when the indexed address crosses a page (R131). -/
def Instr.paysPageCross (i : Instr) : Bool :=
  ([.lda, .ldx, .ldy, .and, .ora, .eor, .adc, .sbc, .cmp] : List Mnemonic).contains i.mnemonic
    && ([.absx, .absy, .indy] : List Mode).contains i.mode

end Sys2Proof
end

