-- ==== Sys2Proof/Certificates/Slice0/Obligations.lean ====
section
/-!
DEFINITION. The statements for the provers: what the numbered rules of spec/ say the machine does, over the model's own
`step`, `exec`, `decode` and shared operations. A statement of what an instruction does ends in `exec i s = .next …` with the
whole next state, so that it says where the instruction completes, its result and its frame at once.
-/
open Sys2Proof Sys2Proof.Machine

/-! ## Encoding (spec/30_encoding.md) -/

/-- R100, R101, R104, R113: decoding the bytes of a well-formed instruction gives it back, with the bytes after it. -/
def Obligations.DecodeOfEncode : Prop :=
  ∀ (i : Instr) (rest : List Byte), i.wellFormed = true → decode (encode i ++ rest) = .ok (i, rest)

/-- R110: bytes that decode are the bytes of the instruction they decode to, so that no two byte strings mean the same. -/
def Obligations.EncodeOfDecode : Prop :=
  ∀ (bytes : List Byte) (i : Instr) (rest : List Byte), decode bytes = .ok (i, rest) →
    bytes = encode i ++ rest ∧ i.wellFormed = true

/-- R110, R114: exactly the 105 listed opcode bytes have no table entry; every other byte is the opcode of an instruction. -/
def Obligations.UndocumentedBytesRefused : Prop :=
  ∀ (op b1 b2 : Byte) (rest : List Byte),
    (op ∈ undocumentedOpcodes → decode (op :: b1 :: b2 :: rest) = .error (.unsupportedOpcode op)) ∧
    (op ∉ undocumentedOpcodes → ∃ i r, decode (op :: b1 :: b2 :: rest) = .ok (i, r) ∧ i.opcode = op)

/-- R111, R113, R116: words written out from the spec's own encodings decode to the instructions they stand for. -/
def Obligations.SampleWordsDecode : Prop :=
  decode [0xA9, 0x10] = .ok (.ldaImm 0x10, []) ∧ decode [0xB6, 0x10] = .ok (.ldxZpy 0x10, []) ∧
  decode [0x8D, 0x06, 0x20] = .ok (.staAbs 0x2006, []) ∧ decode [0x9A] = .ok (.txs, []) ∧
  decode [0x08] = .ok (.php, []) ∧ decode [0xF9, 0x34, 0x12] = .ok (.sbcAbsy 0x1234, []) ∧
  decode [0xFE, 0x34, 0x12] = .ok (.incAbsx 0x1234, []) ∧ decode [0x6A] = .ok (.rorAcc, []) ∧
  decode [0x6C, 0x34, 0x12] = .ok (.jmpInd 0x1234, []) ∧ decode [0xD0, 0xFC] = .ok (.bne 0xFC, []) ∧
  decode [0x00, 0xEA] = .ok (.brk, [0xEA]) ∧ decode [0xB8] = .ok (.clv, [])

/-! ## The step (spec/55_clock_orchestrator.md, spec/40_addressing_modes.md) -/

/-- R105, R130, R320, R321, R73: at an instruction boundary, where the bytes at PC decode to an instruction, `step` is `exec` of
that instruction with PC past its bytes; then one owed cycle is counted down and three PPU cycles run, unless a fault was
raised. The first part says it for bytes of plain storage; the second for every instruction whose bytes can be read, a byte
fetched from register index 2, 4 or 7 with the side effect of its read. That operand bytes are fetched before `exec`, an
immediate operand among them, is the model's cut (log entry 10). -/
def Obligations.StepRunsDecodedInstruction : Prop :=
  (∀ (s : State) (i : Instr) (rest : List Byte), s.atBoundary = true →
    (∀ k, k < i.length → s.plain (s.pc + BitVec.ofNat 16 k) = true) →
    decode [s.byteAt s.pc, s.byteAt (s.pc + 1), s.byteAt (s.pc + 2)] = .ok (i, rest) →
    ∃ t, exec i { s with pc := s.pc + BitVec.ofNat 16 i.length } = .next t ∧
      (t.fault = none → step s = .next (ppuCycles3 { t with cyclesRemaining := t.cyclesRemaining - 1 })) ∧
      (t.fault ≠ none → step s = .next t)) ∧
  (∀ (s : State) (i : Instr), s.atBoundary = true → s.fetchable i.length = true →
    decode (s.fetchedBytes i.length) = .ok (i, []) →
    ∃ t, exec i (s.afterFetch i.length) = .next t ∧
      (t.fault = none → step s = .next (ppuCycles3 { t with cyclesRemaining := t.cyclesRemaining - 1 })) ∧
      (t.fault ≠ none → step s = .next t))

/-- R340, R341, R344(d): at an instruction boundary, an opcode fetch from an address without a read raises
InvalidRegisterAccess, and an opcode byte without table entry raises UnsupportedOpcode with its address; an operand byte at an
address without a read raises InvalidRegisterAccess after the bytes before it were read; nothing else runs. The state beside
the fault record, PC past an immediate operand among it, is the model's reading of R343 (log entry 2). -/
def Obligations.InstructionFetchRaises : Prop :=
  ∀ s : State, s.atBoundary = true →
    (s.readable s.pc = false →
      step s = .next { s with fault := some (.invalidRegisterAccess .read (canonicalAddress s s.pc)) }) ∧
    (s.readable s.pc = true → s.readByte s.pc ∈ undocumentedOpcodes →
      step s = .next { s.afterRead s.pc with
        pc := s.pc + 1
        fault := some (.unsupportedOpcode s.pc (s.readByte s.pc)) }) ∧
    (∀ (i : Instr) (k : Nat), 1 ≤ k → k < i.length → s.fetchable k = true → s.fetchedBytes k = (encode i).take k →
      s.readable (s.pc + BitVec.ofNat 16 k) = false →
      step s = .next { s.afterFetch k with
        pc := if i.mode = .imm then s.pc + 2 else s.pc + BitVec.ofNat 16 k
        fault := some (.invalidRegisterAccess .read (canonicalAddress s (s.pc + BitVec.ofNat 16 k))) })

/-- R324: a raise inside a CPU cycle-step ends the step there, with the fault held and no PPU cycle run; a state that holds a
fault has no successor. That the raising step is itself a next state, and the one after it the stop, is the model's form of it
(log entry 1). -/
def Obligations.FaultedStateHasNoSuccessor : Prop :=
  (∀ (s t : State) (f : Fault), s.fault = none → beginCycle s = .next t → t.fault = some f → step s = .next t) ∧
  (∀ (s : State) (f : Fault), s.fault = some f → step s = .fault f)

/-- R321, R322(a): while n cycle-steps are owed, n steps run nothing but 3n PPU cycles. -/
def Obligations.OwedCyclesRun : Prop :=
  ∀ (n : Nat) (s : State), s.fault = none → n ≤ s.cyclesRemaining →
    Sys2Proof.core.run n s = .next (ppuCycle^[3 * n] { s with cyclesRemaining := s.cyclesRemaining - n })

/-- R321: an instruction of cost n occupies n steps and 3n PPU cycles; all its own effects happen in the first of them. -/
def Obligations.InstructionOccupiesItsCost : Prop :=
  ∀ (s t : State) (i : Instr) (rest : List Byte), s.atBoundary = true →
    (∀ k, k < i.length → s.plain (s.pc + BitVec.ofNat 16 k) = true) →
    decode [s.byteAt s.pc, s.byteAt (s.pc + 1), s.byteAt (s.pc + 2)] = .ok (i, rest) →
    exec i { s with pc := s.pc + BitVec.ofNat 16 i.length } = .next t → t.fault = none → 1 ≤ t.cyclesRemaining →
    Sys2Proof.core.run t.cyclesRemaining s = .next (ppuCycle^[3 * t.cyclesRemaining] { t with cyclesRemaining := 0 })

/-- R334 to R336, R339: at an instruction boundary a pending NMI is taken instead of the next instruction, whatever `P.I` is.
An NMI_CYCLES of 0 is left out: what it would do is the model's choice (log entry 11). -/
def Obligations.NmiTakenAtBoundary : Prop :=
  ∀ s : State, s.fault = none → s.cyclesRemaining = 0 → s.nmiPending = true → 1 ≤ s.launch.nmiCycles →
    step s = .next (ppuCycles3 { s.pushed [hiByte s.pc, loByte s.pc, (s.p.toByte &&& 0xEF) ||| 0x20] with
      p := { s.p with i := true }
      pc := (s.pushed [hiByte s.pc, loByte s.pc, (s.p.toByte &&& 0xEF) ||| 0x20]).wordAt 0xFFFA
      nmiPending := false
      cyclesRemaining := s.launch.nmiCycles - 1 })

/-- R130, R253, R77: every instruction answers a next state in every state, that in which a raise is recorded included (the
model's form of a raise, log entry 1), and none touches the PPU's position, its latches, its shifters, the frame buffer, the
pending NMI or the frame signal. What it writes through the register window (`v`, `t`, fine X, the toggle and the rest) is no
part of this. -/
def Obligations.ExecTouchesNoRendererState : Prop :=
  ∀ (i : Instr) (s : State), ∃ t, exec i s = .next t ∧
    t.nmiPending = s.nmiPending ∧ t.frameComplete = s.frameComplete ∧ t.spriteDraws = s.spriteDraws ∧
    t.launch = s.launch ∧ t.ppu.scanline = s.ppu.scanline ∧ t.ppu.cycle = s.ppu.cycle ∧
    t.ppu.ntLatch = s.ppu.ntLatch ∧ t.ppu.atLatch = s.ppu.atLatch ∧ t.ppu.ptLoLatch = s.ppu.ptLoLatch ∧
    t.ppu.ptHiLatch = s.ppu.ptHiLatch ∧ t.ppu.atBitLo = s.ppu.atBitLo ∧ t.ppu.atBitHi = s.ppu.atBitHi ∧
    t.ppu.bgLo = s.ppu.bgLo ∧ t.ppu.bgHi = s.ppu.bgHi ∧ t.ppu.atLo = s.ppu.atLo ∧ t.ppu.atHi = s.ppu.atHi ∧
    t.ppu.fb = s.ppu.fb ∧ t.ppu.secondaryOam = s.ppu.secondaryOam

/-! ## Invariants and reset (spec/10_state.md, spec/60_exceptions.md) -/

/-- R58, R57: the machine right after reset meets the invariant. Its launch images and mirroring are the model's choice (log
entries 4 and 5); what R57 gives holds for every launch (`ResetAndPowerUp`). -/
def Obligations.ResetIsWellFormed : Prop := State.reset.wf = true

/-- R58, R31, R34, R46: every step keeps the invariant: U = 1, B = 0, a stored fault is a step's own, the position is in
range, and every memory is in canonical form and of its own size. -/
def Obligations.StepKeepsWellFormed : Prop :=
  ∀ s t : State, s.wf = true → step s = .next t → t.wf = true

/-- R88, R326: the launch parameters never change. -/
def Obligations.StepKeepsLaunch : Prop :=
  ∀ s t : State, step s = .next t → t.launch = s.launch

/-- R33: with the standard cycle table and an NMI cost of at most 7, the count of owed cycle-steps never exceeds 7 plus
DMA_STALL_CYCLES. -/
def Obligations.OwedCyclesBounded : Prop :=
  ∀ s t : State, s.launch.cycleRows = [] → s.launch.nmiCycles ≤ 7 →
    s.cyclesRemaining ≤ 7 + s.launch.dmaStallCycles → step s = .next t →
    t.cyclesRemaining ≤ 7 + t.launch.dmaStallCycles

/-- R323, R332, R57: CpuReset loads SP, P, PC and the owed cycles, clears the pending NMI and changes nothing else; what
`powerUp()` leaves, for every launch whose reset vector lies in `EXT`. How many draws of the sprite oracle are counted is the
model's own field (log entry 7), so nothing is said of it. -/
def Obligations.ResetAndPowerUp : Prop :=
  (∀ s : State, cpuReset s = .ok () { s with
    sp := 0xFD
    p := Flags.ofByte 0x24
    pc := s.wordAt 0xFFFC
    nmiPending := false
    cyclesRemaining := s.launch.resetCycles }) ∧
  (∀ l : Launch, l.ramMirrorLast.toNat < 0xFFFC → ∃ n, powerUp l = .next {
    a := 0
    x := 0
    y := 0
    sp := 0xFD
    pc := leWord (Mem.read l.ext0 0xFFFC) (Mem.read l.ext0 0xFFFD)
    p := Flags.ofByte 0x24
    nmiPending := false
    cyclesRemaining := l.resetCycles
    fault := none
    ram := []
    ext := l.ext0
    ppu := Ppu.cleared l.chr0
    frameComplete := false
    spriteDraws := n
    launch := l })

/-! ## Storage and the bus (spec/20_memory.md) -/

/-- R68, R254 to R256, R341: MemRead of every address, by the decoder's four rows and the eight register indices. -/
def Obligations.BusRead : Prop :=
  ∀ (a : Word) (s : State),
    (a.toNat ≤ s.launch.ramMirrorLast.toNat → memRead a s = .ok (Mem.read s.ram (a.toNat % 2048)) s) ∧
    (s.launch.ramMirrorLast.toNat < a.toNat → 0x2000 ≤ a.toNat → a.toNat ≤ 0x3FFF →
      (a.toNat % 8 = 2 → ∃ d, memRead a s = .ok d { s with ppu := { s.ppu with vblank := false, w := false } } ∧
        d.toNat = 128 * carryNat s.ppu.vblank + 64 * carryNat s.ppu.sprite0Hit + 32 * carryNat s.ppu.spriteOverflow) ∧
      (a.toNat % 8 = 4 → memRead a s = .ok (Mem.read s.ppu.oam s.ppu.oamAddr.toNat) s) ∧
      (a.toNat % 8 = 7 → memRead a s = .ok (vramRead s.launch.mirroring s.ppu (s.ppu.v.extractLsb' 0 14))
        (if s.launch.ppudataReadIncrement then
          { s with ppu := { s.ppu with v := s.ppu.v + if s.ppu.ctrl.getLsbD 2 then 32 else 1 } } else s)) ∧
      (a.toNat % 8 ≠ 2 → a.toNat % 8 ≠ 4 → a.toNat % 8 ≠ 7 →
        memRead a s = .raised (.invalidRegisterAccess .read (BitVec.ofNat 16 (0x2000 + a.toNat % 8))) s)) ∧
    (s.launch.ramMirrorLast.toNat < a.toNat → a = 0x4014 → memRead a s = .raised (.invalidRegisterAccess .read 0x4014) s) ∧
    (s.launch.ramMirrorLast.toNat < a.toNat → (a.toNat < 0x2000 ∨ 0x3FFF < a.toNat) → a ≠ 0x4014 →
      memRead a s = .ok (Mem.read s.ext a.toNat) s)

/-- R62, R65, R66, R76: a byte stored in `RAM` or `EXT` reads back at once, through every mirror of it, and no other byte
changes. -/
def Obligations.StoredByteReadsBack : Prop :=
  ∀ (a b : Word) (d : Byte) (s : State), s.plain a = true → s.plain b = true →
    ∃ t, memWrite a d s = .ok () t ∧
      memRead b t =
        .ok (if a = b ∨ (a.toNat ≤ s.launch.ramMirrorLast.toNat ∧ b.toNat ≤ s.launch.ramMirrorLast.toNat ∧
            a.toNat % 2048 = b.toNat % 2048) then d else s.byteAt b) t ∧
      t.ppu = s.ppu ∧ t.cyclesRemaining = s.cyclesRemaining

/-- R267, R63, R250, R251: every mirror of the register window is the register itself: the read, the write, what they change
and the fault they raise depend on the index alone. -/
def Obligations.RegisterWindowMirrors : Prop :=
  ∀ (k i : Nat) (d : Byte) (s : State), k < 1024 → i < 8 → s.launch.ramMirrorLast.toNat < 0x2000 →
    memRead (BitVec.ofNat 16 (0x2000 + 8 * k + i)) s =
      (match ppuRegRead s.launch (BitVec.ofNat 3 i) s.ppu with
        | some (b, p) => .ok b { s with ppu := p }
        | none => .raised (.invalidRegisterAccess .read (BitVec.ofNat 16 (0x2000 + i))) s) ∧
    memWrite (BitVec.ofNat 16 (0x2000 + 8 * k + i)) d s =
      (match ppuRegWrite s.launch (BitVec.ofNat 3 i) d s.ppu with
        | some p => .ok () { s with ppu := p }
        | none => .raised (.invalidRegisterAccess .write (BitVec.ofNat 16 (0x2000 + i))) s)

/-- R81 to R85: the map of the PPU address space with its folds, and read after write through it. -/
def Obligations.PpuSpaceFolds : Prop :=
  ∀ (m : Mirroring) (a : BitVec 14),
    (a.toNat < 0x2000 → vramCell m a = .chr a.toNat) ∧
    (0x2000 ≤ a.toNat → a.toNat < 0x3000 →
      vramCell m a = .nt (match m with
        | .vertical => (a.toNat - 0x2000) % 2048
        | .horizontal => (a.toNat - 0x2000) / 2048 * 1024 + (a.toNat - 0x2000) % 1024)) ∧
    (0x3000 ≤ a.toNat → a.toNat < 0x3F00 → vramCell m a = vramCell m (a - 0x1000)) ∧
    (0x3F00 ≤ a.toNat → vramCell m a = .pal (a.toNat % 32)) ∧
    (∀ (b : BitVec 14) (d : Byte) (p : Ppu),
      vramRead m (vramWrite m p a d) b = if vramCell m b = vramCell m a then d else vramRead m p b)

/-- R27, R28: the status byte round-trips through its field decomposition, both ways. -/
def Obligations.StatusByteRoundTrips : Prop :=
  (∀ p : Flags, Flags.ofByte p.toByte = p) ∧ (∀ d : Byte, (Flags.ofByte d).toByte = d)

/-! ## Addressing modes (spec/40_addressing_modes.md) -/

/-- R132, R136 to R138, R140 to R142, R144 to R146: the effective address and the page-cross flag of every memory mode, in
numbers; a resolver never raises and changes nothing. -/
def Obligations.EffectiveAddresses : Prop :=
  ∀ (s : State) (z : Byte) (a : Word),
    (∀ m, resolve m s = .ok (effective s m) s) ∧
    ((effective s (.zp z)).ea.toNat = z.toNat ∧ (effective s (.zp z)).crossed = false) ∧
    ((effective s (.zpx z)).ea.toNat = (z.toNat + s.x.toNat) % 256 ∧ (effective s (.zpx z)).crossed = false) ∧
    ((effective s (.zpy z)).ea.toNat = (z.toNat + s.y.toNat) % 256 ∧ (effective s (.zpy z)).crossed = false) ∧
    ((effective s (.abs a)).ea = a ∧ (effective s (.abs a)).crossed = false) ∧
    ((effective s (.absx a)).ea.toNat = (a.toNat + s.x.toNat) % 65536 ∧
      (effective s (.absx a)).crossed = decide (a.toNat / 256 ≠ (a.toNat + s.x.toNat) % 65536 / 256)) ∧
    ((effective s (.absy a)).ea.toNat = (a.toNat + s.y.toNat) % 65536 ∧
      (effective s (.absy a)).crossed = decide (a.toNat / 256 ≠ (a.toNat + s.y.toNat) % 65536 / 256)) ∧
    (∀ p : Byte, (pointerAt s p).toNat =
      (s.byteAt (BitVec.ofNat 16 p.toNat)).toNat + 256 * (s.byteAt (BitVec.ofNat 16 ((p.toNat + 1) % 256))).toNat) ∧
    ((effective s (.indx z)).ea = pointerAt s (z + s.x) ∧ (effective s (.indx z)).crossed = false) ∧
    ((effective s (.indy z)).ea.toNat = ((pointerAt s z).toNat + s.y.toNat) % 65536 ∧
      (effective s (.indy z)).crossed =
        decide ((pointerAt s z).toNat / 256 ≠ ((pointerAt s z).toNat + s.y.toNat) % 65536 / 256))

/-! ## Loads, stores and transfers (spec/41_load_store_transfer.md) -/

/-- R150 to R152: LDA, LDX, LDY in every mode. -/
def Obligations.LoadResult : Prop :=
  ∀ (i : Instr) (r : Reg) (src : Source) (s : State), loadForm i = some (r, src) → src.readable s = true →
    exec i s = .next { (src.after s).setReg r (src.value s) with
      p := { s.p with n := (src.value s).getLsbD 7, z := src.value s == 0 }
      cyclesRemaining := s.cyclesRemaining + cost s.launch i.opcode (src.crossed s) 0 }

/-- R153 to R155: STA, STX, STY in every mode, to storage or to a PPU register that has a write. -/
def Obligations.StoreResult : Prop :=
  ∀ (i : Instr) (r : Reg) (m : Addr) (s : State), storeForm i = some (r, m) → s.writable (effective s m).ea = true →
    exec i s = .next { s.afterWrite (effective s m).ea (s.reg r) with
      cyclesRemaining := s.cyclesRemaining + cost s.launch i.opcode (effective s m).crossed 0 }

/-- R264, R266: a store to 0x4014 copies the 256 bytes of the page, in address order, to `OAM` from `oam_addr` on, wrapping at
256; `oam_addr` stays, and the stall is owed beside the instruction's own cost. -/
def Obligations.OamDmaCopies : Prop :=
  ∀ (i : Instr) (r : Reg) (m : Addr) (s : State), storeForm i = some (r, m) → s.target (effective s m).ea = .oamDma →
    s.plainPage (s.reg r) →
    ∃ oam, exec i s = .next { s with
        ppu := { s.ppu with oam := oam }
        cyclesRemaining := s.cyclesRemaining + s.launch.dmaStallCycles
          + cost s.launch i.opcode (effective s m).crossed 0 } ∧
      (∀ k : Byte, Mem.read oam (s.ppu.oamAddr + k).toNat = s.byteAt (BitVec.ofNat 16 (256 * (s.reg r).toNat + k.toNat))) ∧
      (∀ n, 256 ≤ n → Mem.read oam n = Mem.read s.ppu.oam n)

/-- R265: a DMA from a page of the register window raises on its first byte; one from page 0x40 raises at 0x4014, with 20
bytes of `EXT` already copied. The state beside the
fault record is the model's reading of R343 (log entry 2). -/
def Obligations.DmaFromRegistersRaises : Prop :=
  ∀ (i : Instr) (r : Reg) (m : Addr) (s : State), storeForm i = some (r, m) → s.target (effective s m).ea = .oamDma →
    s.launch.ramMirrorLast.toNat < 0x2000 →
    (0x20 ≤ (s.reg r).toNat → (s.reg r).toNat ≤ 0x3F →
      exec i s = .next { s with fault := some (.invalidRegisterAccess .read 0x2000) }) ∧
    (s.reg r = 0x40 →
      ∃ oam, exec i s = .next { s with
          ppu := { s.ppu with oam := oam }
          fault := some (.invalidRegisterAccess .read 0x4014) } ∧
        (∀ k : Byte, Mem.read oam (s.ppu.oamAddr + k).toNat =
          if k.toNat < 20 then Mem.read s.ext (0x4000 + k.toNat) else Mem.read s.ppu.oam (s.ppu.oamAddr + k).toNat))

/-- R156 to R161: TAX, TAY, TXA, TYA, TSX set N and Z; TXS sets no flag. -/
def Obligations.TransferResult : Prop :=
  (∀ (i : Instr) (target source : Reg) (s : State), transferForm i = some (target, source) →
    exec i s = .next { s.setReg target (s.reg source) with
      p := { s.p with n := (s.reg source).getLsbD 7, z := s.reg source == 0 }
      cyclesRemaining := s.cyclesRemaining + cost s.launch i.opcode false 0 }) ∧
  (∀ s : State, exec .tsx s = .next { s with
      x := s.sp
      p := { s.p with n := s.sp.getLsbD 7, z := s.sp == 0 }
      cyclesRemaining := s.cyclesRemaining + cost s.launch 0xBA false 0 }) ∧
  (∀ s : State, exec .txs s = .next { s with
      sp := s.x
      cyclesRemaining := s.cyclesRemaining + cost s.launch 0x9A false 0 })

/-! ## The stack (spec/42_stack.md) -/

/-- R170, R172, R173: PHA and PHP store one byte at 0x0100 + SP and count SP down mod 256. -/
def Obligations.PushResult : Prop :=
  ∀ s : State,
    exec .pha s = .next { pokeByte (BitVec.ofNat 16 (0x100 + s.sp.toNat)) s.a s with
      sp := s.sp - 1
      cyclesRemaining := s.cyclesRemaining + cost s.launch 0x48 false 0 } ∧
    exec .php s = .next { pokeByte (BitVec.ofNat 16 (0x100 + s.sp.toNat)) (s.p.toByte ||| 0x30) s with
      sp := s.sp - 1
      cyclesRemaining := s.cyclesRemaining + cost s.launch 0x08 false 0 } ∧
    (s.launch.cycleRows = [] → cost s.launch 0x48 false 0 = 3 ∧ cost s.launch 0x08 false 0 = 3)

/-- R171, R174, R175: PLA and PLP count SP up mod 256 and load the byte at 0x0100 + SP; PLP drops bits 4 and 5. -/
def Obligations.PullResult : Prop :=
  ∀ (s : State) (d : Byte), d = s.byteAt (BitVec.ofNat 16 (0x100 + (s.sp.toNat + 1) % 256)) →
    exec .pla s = .next { s with
      a := d
      sp := s.sp + 1
      p := { s.p with n := d.getLsbD 7, z := d == 0 }
      cyclesRemaining := s.cyclesRemaining + cost s.launch 0x68 false 0 } ∧
    exec .plp s = .next { s with
      sp := s.sp + 1
      p := { n := d.getLsbD 7, v := d.getLsbD 6, u := true, b := false, d := d.getLsbD 3, i := d.getLsbD 2,
             z := d.getLsbD 1, c := d.getLsbD 0 }
      cyclesRemaining := s.cyclesRemaining + cost s.launch 0x28 false 0 } ∧
    (s.launch.cycleRows = [] → cost s.launch 0x68 false 0 = 4 ∧ cost s.launch 0x28 false 0 = 4)

/-! ## Logic, arithmetic and compares (spec/43_logic_arith.md) -/

/-- R180 to R182: AND, ORA, EOR in every mode. -/
def Obligations.LogicResult : Prop :=
  ∀ (i : Instr) (op : LogicOp) (src : Source) (s : State), logicForm i = some (op, src) → src.readable s = true →
    exec i s = .next { src.after s with
      a := op.apply s.a (src.value s)
      p := { s.p with n := (op.apply s.a (src.value s)).getLsbD 7, z := op.apply s.a (src.value s) == 0 }
      cyclesRemaining := s.cyclesRemaining + cost s.launch i.opcode (src.crossed s) 0 }

/-- R183: BIT takes N and V from the operand, Z from `A & m`, and leaves A. -/
def Obligations.BitResult : Prop :=
  ∀ (i : Instr) (src : Source) (s : State), bitForm i = some src → src.readable s = true →
    exec i s = .next { src.after s with
      p := { s.p with n := (src.value s).getLsbD 7, v := (src.value s).getLsbD 6, z := (s.a &&& src.value s) == 0 }
      cyclesRemaining := s.cyclesRemaining + cost s.launch i.opcode (src.crossed s) 0 }

/-- R184: ADC in every mode, in numbers: the sum mod 256, C the carry out, V set when the two's-complement sum is out of
-128..127. -/
def Obligations.AdcResult : Prop :=
  ∀ (i : Instr) (src : Source) (s : State) (m r : Byte), adcForm i = some src → src.readable s = true →
    m = src.value s → r = BitVec.ofNat 8 (s.a.toNat + m.toNat + carryNat s.p.c) →
    exec i s = .next { src.after s with
      a := r
      p := { s.p with
        n := r.getLsbD 7
        v := decide (s.a.toInt + m.toInt + carryNat s.p.c < -128 ∨ 127 < s.a.toInt + m.toInt + carryNat s.p.c)
        z := r == 0
        c := decide (255 < s.a.toNat + m.toNat + carryNat s.p.c) }
      cyclesRemaining := s.cyclesRemaining + cost s.launch i.opcode (src.crossed s) 0 }

/-- R185: SBC in every mode, in numbers: `A - m - (1 - C)` mod 256, C set when there is no borrow, V set when the
two's-complement difference is out of -128..127. -/
def Obligations.SbcResult : Prop :=
  ∀ (i : Instr) (src : Source) (s : State) (m r : Byte), sbcForm i = some src → src.readable s = true →
    m = src.value s → r = BitVec.ofInt 8 (s.a.toNat - m.toNat - (1 - carryNat s.p.c)) →
    exec i s = .next { src.after s with
      a := r
      p := { s.p with
        n := r.getLsbD 7
        v := decide (s.a.toInt - m.toInt - (1 - carryNat s.p.c) < -128 ∨ 127 < s.a.toInt - m.toInt - (1 - carryNat s.p.c))
        z := r == 0
        c := decide (m.toNat + (1 - carryNat s.p.c) ≤ s.a.toNat) }
      cyclesRemaining := s.cyclesRemaining + cost s.launch i.opcode (src.crossed s) 0 }

/-- R186: the decimal flag has no effect on any instruction but those that push, load, set or clear it: two runs that differ
in it alone end in states that differ in it alone. -/
def Obligations.DecimalFlagIgnored : Prop :=
  ∀ (i : Instr) (s t : State) (e : Bool), i ∉ ([.php, .plp, .brk, .rti, .cld, .sed] : List Instr) → exec i s = .next t →
    exec i { s with p := { s.p with d := e } } = .next { t with p := { t.p with d := e } }

/-- R187 to R190: CMP, CPX, CPY in every mode: C the unsigned comparison, Z equality, N bit 7 of the difference. -/
def Obligations.CompareResult : Prop :=
  ∀ (i : Instr) (r : Reg) (src : Source) (s : State) (m : Byte), compareForm i = some (r, src) → src.readable s = true →
    m = src.value s →
    exec i s = .next { src.after s with
      p := { s.p with
        n := decide (128 ≤ (256 + (s.reg r).toNat - m.toNat) % 256)
        z := decide (s.reg r = m)
        c := decide (m.toNat ≤ (s.reg r).toNat) }
      cyclesRemaining := s.cyclesRemaining + cost s.launch i.opcode (src.crossed s) 0 }

/-! ## Increments, decrements, shifts (spec/44_incdec_shift.md) -/

/-- R200, R201, R204: INC and DEC in every mode: one read and one write of the effective address. -/
def Obligations.IncDecMemoryResult : Prop :=
  ∀ (i : Instr) (m : Addr) (s : State) (r : Byte),
    (incForm i = some m ∧ r = s.readByte (effective s m).ea + 1) ∨
      (decForm i = some m ∧ r = s.readByte (effective s m).ea - 1) →
    s.readable (effective s m).ea = true → s.writable (effective s m).ea = true →
    exec i s = .next { (s.afterRead (effective s m).ea).afterWrite (effective s m).ea r with
      p := { s.p with n := r.getLsbD 7, z := r == 0 }
      cyclesRemaining := s.cyclesRemaining + cost s.launch i.opcode (effective s m).crossed 0 }

/-- R202, R203, R205, R206: INX, INY, DEX, DEY. -/
def Obligations.IncDecRegisterResult : Prop :=
  ∀ (i : Instr) (q : Reg) (up : Bool) (s : State) (r : Byte), stepRegForm i = some (q, up) →
    r = (if up then s.reg q + 1 else s.reg q - 1) →
    exec i s = .next { s.setReg q r with
      p := { s.p with n := r.getLsbD 7, z := r == 0 }
      cyclesRemaining := s.cyclesRemaining + cost s.launch i.opcode false 0 } ∧
    (s.launch.cycleRows = [] → cost s.launch i.opcode false 0 = 2)

/-- R134, R200, R207 to R210: ASL, LSR, ROL, ROR of A, and of memory by one read and one write of the effective address. -/
def Obligations.ShiftResult : Prop :=
  (∀ (i : Instr) (op : ShiftOp) (s : State), shiftAccForm i = some op →
    exec i s = .next { s with
      a := op.result s.a s.p.c
      p := { s.p with
        n := (op.result s.a s.p.c).getLsbD 7
        z := op.result s.a s.p.c == 0
        c := op.carry s.a }
      cyclesRemaining := s.cyclesRemaining + cost s.launch i.opcode false 0 }) ∧
  (∀ (i : Instr) (op : ShiftOp) (m : Addr) (s : State) (r : Byte), shiftMemForm i = some (op, m) →
    s.readable (effective s m).ea = true → s.writable (effective s m).ea = true →
    r = op.result (s.readByte (effective s m).ea) s.p.c →
    exec i s = .next { (s.afterRead (effective s m).ea).afterWrite (effective s m).ea r with
      p := { s.p with n := r.getLsbD 7, z := r == 0, c := op.carry (s.readByte (effective s m).ea) }
      cyclesRemaining := s.cyclesRemaining + cost s.launch i.opcode (effective s m).crossed 0 })

/-- R153 to R155, R200, R252, R341: a store to $2002 (any mirror) raises InvalidRegisterAccess and changes nothing else; a
read-modify-write instruction makes the read, with its effect, and raises on the write. The state beside the fault record is
the model's reading of R343 (log entry 2). -/
def Obligations.WriteToStatusRaises : Prop :=
  (∀ (i : Instr) (r : Reg) (m : Addr) (s : State), storeForm i = some (r, m) → s.target (effective s m).ea = .ppu 2 →
    exec i s = .next { s with fault := some (.invalidRegisterAccess .write 0x2002) }) ∧
  (∀ (i : Instr) (m : Addr) (s : State), modifyForm i = some m → s.target (effective s m).ea = .ppu 2 →
    ∃ t, exec i s = .next t ∧ t.fault = some (.invalidRegisterAccess .write 0x2002) ∧
      t.ppu = { s.ppu with vblank := false, w := false } ∧ t.ram = s.ram ∧ t.ext = s.ext ∧
      t.a = s.a ∧ t.x = s.x ∧ t.y = s.y ∧ t.sp = s.sp ∧ t.pc = s.pc ∧ t.cyclesRemaining = s.cyclesRemaining)

/-! ## Control transfer (spec/45_control.md) -/

/-- R220, R140, R143: JMP to an address, and through a pointer whose high byte is read in the pointer's own page. -/
def Obligations.JumpResult : Prop :=
  ∀ (a high : Word) (s : State), high = (if a.toNat % 256 = 255 then a - 255 else a + 1) →
    exec (.jmpAbs a) s = .next { s with
      pc := a
      cyclesRemaining := s.cyclesRemaining + cost s.launch 0x4C false 0 } ∧
    (s.readable a = true → s.readable high = true →
      exec (.jmpInd a) s = .next { (s.afterRead a).afterRead high with
        pc := leWord (s.readByte a) ((s.afterRead a).readByte high)
        cyclesRemaining := s.cyclesRemaining + cost s.launch 0x6C false 0 }) ∧
    (s.launch.cycleRows = [] → cost s.launch 0x4C false 0 = 3 ∧ cost s.launch 0x6C false 0 = 5)

/-- R221: JSR pushes the address of its own last byte, high byte first, and jumps. -/
def Obligations.JsrResult : Prop :=
  ∀ (a : Word) (s : State), exec (.jsr a) s = .next
    { pokeByte (stackAddress (s.sp - 1)) (loByte (s.pc - 1)) (pokeByte (stackAddress s.sp) (hiByte (s.pc - 1)) s) with
      sp := s.sp - 2
      pc := a
      cyclesRemaining := s.cyclesRemaining + cost s.launch 0x20 false 0 } ∧
    (s.launch.cycleRows = [] → cost s.launch 0x20 false 0 = 6)

/-- R222: RTS pulls a word, low byte first, and goes to the address after it. -/
def Obligations.RtsResult : Prop :=
  ∀ s : State, exec .rts s = .next { s with
    sp := s.sp + 2
    pc := leWord (s.byteAt (stackAddress (s.sp + 1))) (s.byteAt (stackAddress (s.sp + 2))) + 1
    cyclesRemaining := s.cyclesRemaining + cost s.launch 0x60 false 0 } ∧
    (s.launch.cycleRows = [] → cost s.launch 0x60 false 0 = 6)

/-- R223, R337: BRK pushes the address after the padding byte and `P | 0x30`, sets I, and goes through 0xFFFE. -/
def Obligations.BrkResult : Prop :=
  ∀ s : State, exec .brk s = .next { s.pushed [hiByte (s.pc + 1), loByte (s.pc + 1), s.p.toByte ||| 0x30] with
    p := { s.p with i := true }
    pc := (s.pushed [hiByte (s.pc + 1), loByte (s.pc + 1), s.p.toByte ||| 0x30]).wordAt 0xFFFE
    cyclesRemaining := s.cyclesRemaining + cost s.launch 0x00 false 0 } ∧
    (s.launch.cycleRows = [] → cost s.launch 0x00 false 0 = 7)

/-- R224, R346: RTI pulls P (bits 4 and 5 dropped) and then PC, low byte first. -/
def Obligations.RtiResult : Prop :=
  ∀ (s : State) (d : Byte), d = s.byteAt (stackAddress (s.sp + 1)) →
    exec .rti s = .next { s with
      sp := s.sp + 3
      p := { n := d.getLsbD 7, v := d.getLsbD 6, u := true, b := false, d := d.getLsbD 3, i := d.getLsbD 2,
             z := d.getLsbD 1, c := d.getLsbD 0 }
      pc := leWord (s.byteAt (stackAddress (s.sp + 2))) (s.byteAt (stackAddress (s.sp + 3)))
      cyclesRemaining := s.cyclesRemaining + cost s.launch 0x40 false 0 } ∧
    (s.launch.cycleRows = [] → cost s.launch 0x40 false 0 = 6)

/-- R222, R234, R224, R346: RTS undoes JSR and RTI undoes BRK and NMI entry, wherever SP stands and wherever the handler is:
SP and PC come back, and P with them from a trap. -/
def Obligations.ReturnsUndoCalls : Prop :=
  ∀ (s : State) (a handler : Word),
    (∃ t u, exec (.jsr a) s = .next t ∧ exec .rts { t with pc := handler } = .next u ∧ u.pc = s.pc ∧ u.sp = s.sp) ∧
    (∃ t u, exec .brk s = .next t ∧ exec .rti { t with pc := handler } = .next u ∧
      u.pc = s.pc + 1 ∧ u.sp = s.sp ∧ u.p = { s.p with u := true, b := false }) ∧
    (∃ t u, nmiEntry s = .ok () t ∧ exec .rti { t with pc := handler } = .next u ∧
      u.pc = s.pc ∧ u.sp = s.sp ∧ u.p = { s.p with u := true, b := false })

/-- R225 to R233, R139: the eight branches: the target is the address of the next instruction plus the signed offset; a taken
branch costs one cycle more, or two more when it goes to another page. -/
def Obligations.BranchResult : Prop :=
  ∀ (i : Instr) (taken : Bool) (d : Byte) (s : State) (target : Word), branchForm s.p i = some (taken, d) →
    target = BitVec.ofInt 16 (s.pc.toNat + d.toInt) →
    exec i s = .next { s with
      pc := if taken then target else s.pc
      cyclesRemaining := s.cyclesRemaining + cost s.launch i.opcode false
        (if taken then (if target.toNat / 256 = s.pc.toNat / 256 then 1 else 2) else 0) } ∧
    (s.launch.cycleRows = [] → ∀ extra, cost s.launch i.opcode false extra = 2 + extra)

/-! ## Flags, NOP, faults, cost, frames (spec/46_flags_nop.md, spec/60_exceptions.md, spec/10_state.md) -/

/-- R240 to R247: the flag instructions change the one flag named; NOP changes nothing but the owed cycles; each costs 2. -/
def Obligations.FlagAndNopResult : Prop :=
  (∀ (i : Instr) (p : Flags) (s : State), flagForm s.p i = some p →
    exec i s = .next { s with
      p := p
      cyclesRemaining := s.cyclesRemaining + cost s.launch i.opcode false 0 } ∧
    (s.launch.cycleRows = [] → cost s.launch i.opcode false 0 = 2)) ∧
  (∀ s : State, exec .nop s = .next { s with cyclesRemaining := s.cyclesRemaining + cost s.launch 0xEA false 0 } ∧
    (s.launch.cycleRows = [] → cost s.launch 0xEA false 0 = 2))

/-- R341, R343: an instruction whose data address has no read raises InvalidRegisterAccess with the canonical address, and
nothing else changes; so does an indirect jump through such a pointer. The state beside the fault record is the model's reading
of R343 (log entry 2). -/
def Obligations.UnreadableOperandRaises : Prop :=
  ∀ (i : Instr) (m : Addr) (ptr high : Word) (s : State),
    (dataReadForm i = some m → s.readable (effective s m).ea = false →
      exec i s = .next { s with fault := some (.invalidRegisterAccess .read (canonicalAddress s (effective s m).ea)) }) ∧
    (s.readable ptr = false →
      exec (.jmpInd ptr) s = .next { s with fault := some (.invalidRegisterAccess .read (canonicalAddress s ptr)) }) ∧
    (high = (if ptr.toNat % 256 = 255 then ptr - 255 else ptr + 1) → s.readable ptr = true → s.readable high = false →
      exec (.jmpInd ptr) s = .next { s.afterRead ptr with
        fault := some (.invalidRegisterAccess .read (canonicalAddress s high)) })

/-- R131, R113: with the standard table an instruction costs the base count R113 prints for it, one more when its indexed
address crosses a page and it is one that pays for that, and a branch's penalty; in all 2 to 7 cycles. R322(d): with every
count 1, no penalty and no stall, every step is one instruction or one NMI entry; that a row without the branch penalty adds
none is the model's reading of CYCLES (log entry 11). -/
def Obligations.InstructionCost : Prop :=
  (∀ (l : Launch) (i : Instr) (crossed : Bool) (extra : Nat), l.cycleRows = [] →
    extra ≤ (if i.mode = .rel then 2 else 0) →
    cost l i.opcode crossed extra = i.baseCycles + (if i.paysPageCross && crossed then 1 else 0) + extra ∧
    2 ≤ cost l i.opcode crossed extra ∧ cost l i.opcode crossed extra ≤ 7) ∧
  (∀ s t : State, (∀ i : Instr, cyclesOf s.launch i.opcode = ⟨1, false, false⟩) → s.launch.nmiCycles = 1 →
    s.launch.dmaStallCycles = 0 → s.cyclesRemaining = 0 → step s = .next t → t.fault = none → t.cyclesRemaining = 0)

/-- R72, R132, R153, R172, R200, R221, R223: every byte of `RAM` and `EXT` but those an instruction stores to reads as before,
whatever the instruction and whether or not it raises. -/
def Obligations.MemoryFrame : Prop :=
  ∀ (i : Instr) (s t : State), exec i s = .next t →
    ∀ b : Word, (∀ a ∈ storeAddresses s i, s.target b ≠ s.target a) → t.byteAt b = s.byteAt b

/-- R29, R21 to R24, R161: which instructions write which flag and which register; every other instruction leaves it. -/
def Obligations.FlagAndRegisterFrame : Prop :=
  ∀ (i : Instr) (s t : State), exec i s = .next t →
    (i.mnemonic ∉ ([.adc, .sbc, .cmp, .cpx, .cpy, .asl, .lsr, .rol, .ror, .clc, .sec, .plp, .rti] : List Mnemonic) →
      t.p.c = s.p.c) ∧
    (i.mnemonic ∉ ([.lda, .ldx, .ldy, .tax, .tay, .txa, .tya, .tsx, .pla, .and, .ora, .eor, .adc, .sbc, .cmp, .cpx, .cpy, .bit,
        .inc, .inx, .iny, .dec, .dex, .dey, .asl, .lsr, .rol, .ror, .plp, .rti] : List Mnemonic) →
      t.p.z = s.p.z ∧ t.p.n = s.p.n) ∧
    (i.mnemonic ∉ ([.sei, .cli, .brk, .plp, .rti] : List Mnemonic) → t.p.i = s.p.i) ∧
    (i.mnemonic ∉ ([.sed, .cld, .plp, .rti] : List Mnemonic) → t.p.d = s.p.d) ∧
    (i.mnemonic ∉ ([.adc, .sbc, .bit, .clv, .plp, .rti] : List Mnemonic) → t.p.v = s.p.v) ∧
    (s.p.u = true → s.p.b = false → t.p.u = true ∧ t.p.b = false) ∧
    (i.mnemonic ∉ ([.lda, .txa, .tya, .pla, .and, .ora, .eor, .adc, .sbc, .asl, .lsr, .rol, .ror] : List Mnemonic) →
      t.a = s.a) ∧
    (i.mnemonic ∉ ([.ldx, .tax, .tsx, .inx, .dex] : List Mnemonic) → t.x = s.x) ∧
    (i.mnemonic ∉ ([.ldy, .tay, .iny, .dey] : List Mnemonic) → t.y = s.y) ∧
    (i.mnemonic ∉ ([.txs, .pha, .php, .pla, .plp, .jsr, .rts, .brk, .rti] : List Mnemonic) → t.sp = s.sp) ∧
    (i.mode = .rel ∨ i.mnemonic ∈ ([.jmp, .jsr, .rts, .brk, .rti] : List Mnemonic) ∨ t.pc = s.pc)

/-! ## The PPU registers (spec/50_ppu_registers.md) -/

/-- R257 to R263: what a write of each PPU register does, bit field by bit field, at every mirror of it. -/
def Obligations.PpuRegisterWrites : Prop :=
  ∀ (a : Word) (d : Byte) (s : State),
    (s.target a = .ppu 0 → memWrite a d s = .ok () { s with ppu := { s.ppu with
      ctrl := d
      t := (s.ppu.t.extractLsb' 12 3 ++ d.extractLsb' 0 2 ++ s.ppu.t.extractLsb' 0 10 : BitVec 15) } }) ∧
    (s.target a = .ppu 1 → memWrite a d s = .ok () { s with ppu := { s.ppu with mask := d } }) ∧
    (s.target a = .ppu 3 → memWrite a d s = .ok () { s with ppu := { s.ppu with oamAddr := d } }) ∧
    (s.target a = .ppu 4 → memWrite a d s = .ok () { s with ppu := { s.ppu with
      oam := Mem.write s.ppu.oam s.ppu.oamAddr.toNat d
      oamAddr := BitVec.ofNat 8 ((s.ppu.oamAddr.toNat + 1) % 256) } }) ∧
    (s.target a = .ppu 5 → s.ppu.w = false → memWrite a d s = .ok () { s with ppu := { s.ppu with
      t := (s.ppu.t.extractLsb' 5 10 ++ d.extractLsb' 3 5 : BitVec 15)
      fineX := d.extractLsb' 0 3
      w := true } }) ∧
    (s.target a = .ppu 5 → s.ppu.w = true → memWrite a d s = .ok () { s with ppu := { s.ppu with
      t := (d.extractLsb' 0 3 ++ s.ppu.t.extractLsb' 10 2 ++ d.extractLsb' 3 5 ++ s.ppu.t.extractLsb' 0 5 : BitVec 15)
      w := false } }) ∧
    (s.target a = .ppu 6 → s.ppu.w = false → memWrite a d s = .ok () { s with ppu := { s.ppu with
      t := ((0 : BitVec 1) ++ d.extractLsb' 0 6 ++ s.ppu.t.extractLsb' 0 8 : BitVec 15)
      w := true } }) ∧
    (s.target a = .ppu 6 → s.ppu.w = true → memWrite a d s = .ok () { s with ppu := { s.ppu with
      t := (s.ppu.t.extractLsb' 8 7 ++ d : BitVec 15)
      v := (s.ppu.t.extractLsb' 8 7 ++ d : BitVec 15)
      w := false } }) ∧
    (s.target a = .ppu 7 → memWrite a d s = .ok () { s with ppu :=
      { vramWrite s.launch.mirroring s.ppu (s.ppu.v.extractLsb' 0 14) d with
        v := BitVec.ofNat 15 ((s.ppu.v.toNat + if s.ppu.ctrl.getLsbD 2 then 32 else 1) % 32768) } })

/-! ## The picture unit's own step (spec/51_ppu_rendering.md) -/

/-- R281, R283: from the position (0, 0), call k of `PpuCycle` begins at scanline `(k div 341) mod 262`, cycle `k mod 341`,
and the frame signal is first set by the call that ends a frame of 89342. -/
def Obligations.PositionOfPpuCycle : Prop :=
  ∀ (k : Nat) (s : State), s.ppu.scanline = 0 → s.ppu.cycle = 0 → s.frameComplete = false →
    (ppuCycle^[k] s).ppu.scanline = k / 341 % 262 ∧ (ppuCycle^[k] s).ppu.cycle = k % 341 ∧
    (ppuCycle^[k] s).frameComplete = decide (89342 ≤ k)

/-- R280, R284, R285, R32, R333: one PPU cycle touches no CPU register and no CPU memory, and of the PPU neither PPUCTRL, PPUMASK,
`oam_addr`, `t`, fine X and `w` nor `OAM`, `secondary_OAM`, `NT`, `PAL` and `CHR`; its one output to the CPU is `nmi_pending`, set at (241, 1) when NMI is
enabled; vblank is set there and cleared at (261, 1), and nowhere else. -/
def Obligations.PpuCycleEvents : Prop :=
  ∀ s : State,
    ((ppuCycle s).a = s.a ∧ (ppuCycle s).x = s.x ∧ (ppuCycle s).y = s.y ∧ (ppuCycle s).sp = s.sp ∧
      (ppuCycle s).pc = s.pc ∧ (ppuCycle s).p = s.p ∧ (ppuCycle s).cyclesRemaining = s.cyclesRemaining ∧
      (ppuCycle s).fault = s.fault ∧ (ppuCycle s).ram = s.ram ∧ (ppuCycle s).ext = s.ext ∧
      (ppuCycle s).launch = s.launch) ∧
    ((ppuCycle s).ppu.ctrl = s.ppu.ctrl ∧ (ppuCycle s).ppu.mask = s.ppu.mask ∧ (ppuCycle s).ppu.oamAddr = s.ppu.oamAddr ∧
      (ppuCycle s).ppu.t = s.ppu.t ∧ (ppuCycle s).ppu.fineX = s.ppu.fineX ∧ (ppuCycle s).ppu.w = s.ppu.w ∧
      (ppuCycle s).ppu.oam = s.ppu.oam ∧ (ppuCycle s).ppu.secondaryOam = s.ppu.secondaryOam ∧
      (ppuCycle s).ppu.nt = s.ppu.nt ∧ (ppuCycle s).ppu.pal = s.ppu.pal ∧ (ppuCycle s).ppu.chr = s.ppu.chr) ∧
    (ppuCycle s).nmiPending =
      (s.nmiPending || (decide (s.ppu.scanline = 241 ∧ s.ppu.cycle = 1) && s.ppu.ctrl.getLsbD 7)) ∧
    (ppuCycle s).ppu.vblank =
      (if s.ppu.scanline = 241 ∧ s.ppu.cycle = 1 then true
        else if s.ppu.scanline = 261 ∧ s.ppu.cycle = 1 then false else s.ppu.vblank) ∧
    (s.launch.spriteOracle = .never →
      (ppuCycle s).ppu.sprite0Hit = (s.ppu.sprite0Hit && !decide (s.ppu.scanline = 261 ∧ s.ppu.cycle = 1)) ∧
      (ppuCycle s).ppu.spriteOverflow = (s.ppu.spriteOverflow && !decide (s.ppu.scanline = 261 ∧ s.ppu.cycle = 1)))

/-- R280, R281, R282, R284, R285, R287, R301: off the render lines a PPU cycle changes nothing of the PPU but the position and,
at (241, 1), vblank; with rendering disabled it changes nothing but the position, the status bits at (241, 1) and (261, 1), and
the pixel of a visible position, which it gives the backdrop colour. -/
def Obligations.QuietPpuCycle : Prop :=
  ∀ (s : State) (line column : Nat),
    line = (if s.ppu.cycle = 340 then (if s.ppu.scanline = 261 then 0 else s.ppu.scanline + 1) else s.ppu.scanline) →
    column = (if s.ppu.cycle = 340 then 0 else s.ppu.cycle + 1) →
    (240 ≤ s.ppu.scanline → s.ppu.scanline ≤ 260 →
      (ppuCycle s).ppu = { s.ppu with
        scanline := line
        cycle := column
        vblank := if s.ppu.scanline = 241 ∧ s.ppu.cycle = 1 then true else s.ppu.vblank }) ∧
    (s.ppu.mask.getLsbD 3 = false → s.ppu.mask.getLsbD 4 = false →
      (∃ fb, (ppuCycle s).ppu = { s.ppu with
        scanline := line
        cycle := column
        vblank := if s.ppu.scanline = 241 ∧ s.ppu.cycle = 1 then true
          else if s.ppu.scanline = 261 ∧ s.ppu.cycle = 1 then false else s.ppu.vblank
        sprite0Hit := if s.ppu.scanline = 261 ∧ s.ppu.cycle = 1 then false else s.ppu.sprite0Hit
        spriteOverflow := if s.ppu.scanline = 261 ∧ s.ppu.cycle = 1 then false else s.ppu.spriteOverflow
        fb := fb }) ∧
      (∀ row x, row ≤ 239 → x ≤ 255 → (ppuCycle s).framePixel row x =
        if s.ppu.scanline = row ∧ s.ppu.cycle = x + 1 then (Mem.read s.ppu.pal 0).extractLsb' 0 6
        else s.framePixel row x))

/-- R299, R300, R287: with rendering enabled, one PPU cycle at a visible position stores the pixel the shifters' heads and
fine X select: the backdrop for value 0 or with the background off, else entry `4 * palette + value` of palette RAM; no other
pixel changes. -/
def Obligations.PixelEmitted : Prop :=
  ∀ (s : State) (x px pal : Nat), (s.ppu.mask.getLsbD 3 || s.ppu.mask.getLsbD 4) = true → x = s.ppu.fineX.toNat →
    px = (if s.ppu.mask.getLsbD 3 then
      2 * carryNat (s.ppu.bgHi.getLsbD (15 - x)) + carryNat (s.ppu.bgLo.getLsbD (15 - x)) else 0) →
    pal = 2 * carryNat (s.ppu.atHi.getLsbD (7 - x)) + carryNat (s.ppu.atLo.getLsbD (7 - x)) →
    ∀ row column, row ≤ 239 → column ≤ 255 → (ppuCycle s).framePixel row column =
      if s.ppu.scanline = row ∧ s.ppu.cycle = column + 1 then
        (Mem.read s.ppu.pal (if px = 0 then 0 else 4 * pal + px)).extractLsb' 0 6
      else s.framePixel row column

/-- R280, R288 to R295, R298: with rendering enabled on a render line, the eight PPU cycles from cycle 1 mod 8 of a fetch window
on shift the tile fetched before into the high halves of the shifters and its palette selector through the attribute shifters,
read the four bytes of the tile that `v` names, and load them: the pattern bytes into the low halves, the tile's 2-bit palette
selector into the attribute latches; `v` then moves on by one tile, and at cycle 256 by one row of pixels too. The registers
and memories are left. -/
def Obligations.TileFetch : Prop :=
  ∀ (s : State) (p q : Ppu) (m : Mirroring) (nt attr : Byte) (pattern : BitVec 14), p = s.ppu → m = s.launch.mirroring →
    (p.mask.getLsbD 3 || p.mask.getLsbD 4) = true → p.scanline ≤ 239 ∨ p.scanline = 261 → p.cycle % 8 = 1 →
    p.cycle ≤ 249 ∨ p.cycle = 321 ∨ p.cycle = 329 →
    nt = vramRead m p (BitVec.ofNat 14 (0x2000 + p.v.toNat % 4096)) →
    attr = vramRead m p (BitVec.ofNat 14 (0x23C0 + p.v.toNat / 1024 % 4 * 1024 + p.v.toNat / 128 % 8 * 8 + p.v.toNat / 4 % 8)) →
    pattern = BitVec.ofNat 14 (0x1000 * carryNat (p.ctrl.getLsbD 4) + 16 * nt.toNat + p.v.toNat / 4096) →
    q = (ppuCycle^[8] s).ppu →
    q.bgLo = (p.bgLo.extractLsb' 0 8 ++ vramRead m p pattern : BitVec 16) ∧
    q.bgHi = (p.bgHi.extractLsb' 0 8 ++ vramRead m p (pattern + 8) : BitVec 16) ∧
    q.atLo = (if p.atBitLo then 0xFF else 0x00) ∧ q.atHi = (if p.atBitHi then 0xFF else 0x00) ∧
    2 * carryNat q.atBitHi + carryNat q.atBitLo =
      attr.toNat / 2 ^ (4 * (p.v.toNat / 64 % 2) + 2 * (p.v.toNat / 2 % 2)) % 4 ∧
    q.v = (if p.cycle = 249 then incY (incCoarseX p.v) else incCoarseX p.v) ∧
    q.scanline = p.scanline ∧ q.cycle = p.cycle + 8 ∧ q.ctrl = p.ctrl ∧ q.mask = p.mask ∧ q.oamAddr = p.oamAddr ∧
    q.t = p.t ∧ q.fineX = p.fineX ∧ q.w = p.w ∧ q.oam = p.oam ∧ q.secondaryOam = p.secondaryOam ∧ q.nt = p.nt ∧
    q.pal = p.pal ∧ q.chr = p.chr

/-- R280, R287, R288, R294 to R297: when and how the renderer moves `v`. With rendering enabled on a render line, a PPU cycle moves
it to the next tile at every eighth cycle of a fetch window, to the next row of pixels as well at cycle 256, takes the
horizontal coordinates from `t` at cycle 257 and the vertical ones at cycles 280 to 304 of the pre-render line; every other
cycle, and every cycle with rendering disabled or off the render lines, leaves it. The next tile and the next row are said in
coordinates. -/
def Obligations.ScrollSteps : Prop :=
  (∀ s : State, (ppuCycle s).ppu.v =
    if (s.ppu.mask.getLsbD 3 || s.ppu.mask.getLsbD 4) = true ∧ (s.ppu.scanline ≤ 239 ∨ s.ppu.scanline = 261) then
      if s.ppu.cycle = 256 then incY (incCoarseX s.ppu.v)
      else if s.ppu.cycle % 8 = 0 ∧ ((1 ≤ s.ppu.cycle ∧ s.ppu.cycle ≤ 255) ∨ (321 ≤ s.ppu.cycle ∧ s.ppu.cycle ≤ 336)) then
        incCoarseX s.ppu.v
      else if s.ppu.cycle = 257 then
        (s.ppu.v.extractLsb' 11 4 ++ s.ppu.t.extractLsb' 10 1 ++ s.ppu.v.extractLsb' 5 5 ++ s.ppu.t.extractLsb' 0 5 : BitVec 15)
      else if s.ppu.scanline = 261 ∧ 280 ≤ s.ppu.cycle ∧ s.ppu.cycle ≤ 304 then
        (s.ppu.t.extractLsb' 11 4 ++ s.ppu.v.extractLsb' 10 1 ++ s.ppu.t.extractLsb' 5 5 ++ s.ppu.v.extractLsb' 0 5 : BitVec 15)
      else s.ppu.v
    else s.ppu.v) ∧
  (∀ v : BitVec 15,
    ((incCoarseX v).toNat % 32 = (v.toNat % 32 + 1) % 32 ∧
      (incCoarseX v).toNat / 1024 % 2 = (v.toNat / 1024 + (if v.toNat % 32 = 31 then 1 else 0)) % 2 ∧
      (incCoarseX v).toNat / 32 % 32 = v.toNat / 32 % 32 ∧ (incCoarseX v).toNat / 2048 = v.toNat / 2048) ∧
    ((incY v).toNat / 4096 = (v.toNat / 4096 + 1) % 8 ∧
      (incY v).toNat / 32 % 32 = (if v.toNat / 4096 < 7 then v.toNat / 32 % 32
        else if v.toNat / 32 % 32 = 29 then 0 else (v.toNat / 32 % 32 + 1) % 32) ∧
      (incY v).toNat / 2048 % 2 = (v.toNat / 2048 +
        (if v.toNat / 4096 = 7 ∧ v.toNat / 32 % 32 = 29 then 1 else 0)) % 2 ∧
      (incY v).toNat % 32 = v.toNat % 32 ∧ (incY v).toNat / 1024 % 2 = v.toNat / 1024 % 2))

/-- R306 to R309, R342: the host's queries: a pixel of a tile is `2 * high + low` of its two plane bytes, the most significant
bit the left-most; the palette query of a tile agrees with the renderer's own selection; a colour index above 63 is reported,
never clamped. -/
def Obligations.HostQueries : Prop :=
  (∀ (s : State) (a : BitVec 14) (r x : Nat), r < 8 → x < 8 → ∃ row px,
    (tileAt s a)[r]? = some row ∧ row[x]? = some px ∧
    px.toNat = 2 * carryNat ((vramRead s.launch.mirroring s.ppu (a + BitVec.ofNat 14 (r + 8))).getLsbD (7 - x))
      + carryNat ((vramRead s.launch.mirroring s.ppu (a + BitVec.ofNat 14 r)).getLsbD (7 - x))) ∧
  (∀ (s : State) (v : BitVec 15), v.toNat % 1024 < 0x3C0 →
    paletteSelect s (0x2000 + v.toNat % 4096) = .ok (attributeSelect
      (vramRead s.launch.mirroring s.ppu (attributeAddress v)) (v.getLsbD 6) (v.getLsbD 1))) ∧
  (∀ i : Nat, (63 < i → rgb i = .error (.paletteIndexOutOfRange i)) ∧
    (i ≤ 63 → rgb i = .ok (Config.rgbTable (BitVec.ofNat 6 i))))

/-- R280, R287 to R294, R298: what one PPU cycle does to the fetch latches and the shifters. In a fetch window of a render line
with rendering enabled the shifters shift by one bit, and by the cycle mod 8 one latch takes the byte that `v` names, or the
latches are loaded into the shifters; at every other position, and with rendering disabled, all of them stay. -/
def Obligations.FetchAndShiftCycle : Prop :=
  ∀ (s : State) (p q : Ppu) (m : Mirroring) (active : Bool) (pattern : BitVec 14),
    p = s.ppu → q = (ppuCycle s).ppu → m = s.launch.mirroring →
    active = decide ((p.mask.getLsbD 3 || p.mask.getLsbD 4) = true ∧ (p.scanline ≤ 239 ∨ p.scanline = 261) ∧
      ((1 ≤ p.cycle ∧ p.cycle ≤ 256) ∨ (321 ≤ p.cycle ∧ p.cycle ≤ 336))) →
    pattern = BitVec.ofNat 14 (0x1000 * carryNat (p.ctrl.getLsbD 4) + 16 * p.ntLatch.toNat + p.v.toNat / 4096) →
    (active = true →
      q.ntLatch = (if p.cycle % 8 = 1 then vramRead m p (BitVec.ofNat 14 (0x2000 + p.v.toNat % 4096)) else p.ntLatch) ∧
      q.atLatch = (if p.cycle % 8 = 3 then vramRead m p (BitVec.ofNat 14
        (0x23C0 + p.v.toNat / 1024 % 4 * 1024 + p.v.toNat / 128 % 8 * 8 + p.v.toNat / 4 % 8)) else p.atLatch) ∧
      q.ptLoLatch = (if p.cycle % 8 = 5 then vramRead m p pattern else p.ptLoLatch) ∧
      q.ptHiLatch = (if p.cycle % 8 = 7 then vramRead m p (pattern + 8) else p.ptHiLatch) ∧
      q.bgLo = (if p.cycle % 8 = 0 then (p.bgLo.extractLsb' 7 8 ++ p.ptLoLatch : BitVec 16)
        else BitVec.ofNat 16 (2 * p.bgLo.toNat % 65536)) ∧
      q.bgHi = (if p.cycle % 8 = 0 then (p.bgHi.extractLsb' 7 8 ++ p.ptHiLatch : BitVec 16)
        else BitVec.ofNat 16 (2 * p.bgHi.toNat % 65536)) ∧
      q.atLo = BitVec.ofNat 8 (2 * p.atLo.toNat % 256 + carryNat p.atBitLo) ∧
      q.atHi = BitVec.ofNat 8 (2 * p.atHi.toNat % 256 + carryNat p.atBitHi) ∧
      2 * carryNat q.atBitHi + carryNat q.atBitLo =
        (if p.cycle % 8 = 0 then p.atLatch.toNat / 2 ^ (4 * (p.v.toNat / 64 % 2) + 2 * (p.v.toNat / 2 % 2)) % 4
          else 2 * carryNat p.atBitHi + carryNat p.atBitLo)) ∧
    (active = false →
      q.ntLatch = p.ntLatch ∧ q.atLatch = p.atLatch ∧ q.ptLoLatch = p.ptLoLatch ∧ q.ptHiLatch = p.ptHiLatch ∧
      q.bgLo = p.bgLo ∧ q.bgHi = p.bgHi ∧ q.atLo = p.atLo ∧ q.atHi = p.atHi ∧
      q.atBitLo = p.atBitLo ∧ q.atBitHi = p.atBitHi)
end

