-- ==== Sys2Proof/Laws/Flags.lean ====
section
/-!
SUPPORT. The flag computations in numbers: bit 7 as a comparison, the overflow of ADC and SBC as a two's-complement range, SBC
as a difference with borrow, and what PLP and RTI load.
-/
namespace Sys2Proof.Machine

/-- Bit 7 of a byte is the sign comparison. -/
theorem getLsbD_seven (d : Byte) : d.getLsbD 7 = decide (128 ≤ d.toNat) := by
  revert d; decide +kernel

/-- A byte read as two's complement. -/
theorem toInt_byte (a : Byte) : a.toInt = if 128 ≤ a.toNat then (a.toNat : Int) - 256 else a.toNat := by
  revert a; decide +kernel

theorem carryNat_le_one (c : Bool) : carryNat c ≤ 1 := by cases c <;> decide

theorem sbcOperand_toNat (m : Byte) : (sbcOperand m).toNat = 255 - m.toNat := by
  revert m; decide +kernel

/-- A byte masked to bit 7 is not 0 exactly when its bit 7 is set. -/
theorem and_sign_ne_zero (d : Byte) : ((d &&& 0x80) != 0) = d.getLsbD 7 := by
  revert d; decide +kernel

theorem adcResult_toNat (a m : Byte) (c : Bool) : (adcResult a m c).toNat = (a.toNat + m.toNat + carryNat c) % 256 := by
  simp [adcResult, adcSum]

/-- The overflow of ADC is the two's-complement sum leaving -128..127 (R184, "Equivalent statement of V"). -/
theorem adcOverflow_eq (a m : Byte) (c : Bool) : adcOverflow a m c =
    decide (a.toInt + m.toInt + carryNat c < -128 ∨ 127 < a.toInt + m.toInt + carryNat c) := by
  have ha := a.isLt
  have hm := m.isLt
  have hc := carryNat_le_one c
  have hr := adcResult_toNat a m c
  rw [adcOverflow, and_sign_ne_zero, BitVec.getLsbD_and, BitVec.getLsbD_xor, BitVec.getLsbD_xor]
  simp only [getLsbD_seven, hr, toInt_byte]
  generalize a.toNat = A at *
  generalize m.toNat = M at *
  generalize carryNat c = C at *
  rw [Bool.eq_iff_iff]
  by_cases h1 : 128 ≤ A <;> by_cases h2 : 128 ≤ M <;> by_cases h3 : 128 ≤ (A + M + C) % 256 <;>
    simp [h1, h2, h3] <;> omega

/-- The overflow of SBC is the two's-complement difference leaving -128..127 (R185). -/
theorem sbcOverflow_eq (a m : Byte) (c : Bool) : adcOverflow a (sbcOperand m) c =
    decide (a.toInt - m.toInt - (1 - carryNat c) < -128 ∨ 127 < a.toInt - m.toInt - (1 - carryNat c)) := by
  have hm := m.isLt
  rw [adcOverflow_eq]
  simp only [toInt_byte, sbcOperand_toNat]
  congr 1
  split <;> split <;> split <;> simp <;> omega

/-- The result of SBC is the difference with borrow, mod 256 (R185). -/
theorem sbcResult_eq (a m : Byte) (c : Bool) :
    adcResult a (sbcOperand m) c = BitVec.ofInt 8 (a.toNat - m.toNat - (1 - carryNat c)) := by
  have ha := a.isLt
  have hm := m.isLt
  have hc := carryNat_le_one c
  apply BitVec.eq_of_toNat_eq
  rw [adcResult_toNat, sbcOperand_toNat, BitVec.toNat_ofInt]
  omega

/-- The carry of SBC is the absence of a borrow (R185). -/
theorem sbcCarry_eq (a m : Byte) (c : Bool) :
    adcCarry a (sbcOperand m) c = decide (m.toNat + (1 - carryNat c) ≤ a.toNat) := by
  have hm := m.isLt
  have hc := carryNat_le_one c
  simp only [adcCarry, adcSum, sbcOperand_toNat, decide_eq_decide]
  omega

/-- The four shifts and rotates in numbers (R207 to R210). -/
theorem shiftAsl_eq (m : Byte) (c : Bool) : shiftAsl m c = ⟨ShiftOp.result .asl m c, ShiftOp.carry .asl m⟩ := by
  revert m c; decide +kernel

theorem shiftLsr_eq (m : Byte) (c : Bool) : shiftLsr m c = ⟨ShiftOp.result .lsr m c, ShiftOp.carry .lsr m⟩ := by
  revert m c; decide +kernel

theorem shiftRol_eq (m : Byte) (c : Bool) : shiftRol m c = ⟨ShiftOp.result .rol m c, ShiftOp.carry .rol m⟩ := by
  revert m c; decide +kernel

theorem shiftRor_eq (m : Byte) (c : Bool) : shiftRor m c = ⟨ShiftOp.result .ror m c, ShiftOp.carry .ror m⟩ := by
  revert m c; decide +kernel

/-- What PLP and RTI load (R31, R175). -/
theorem Flags.pulled_eq (d : Byte) : Flags.pulled d =
    { n := d.getLsbD 7, v := d.getLsbD 6, u := true, b := false, d := d.getLsbD 3, i := d.getLsbD 2,
      z := d.getLsbD 1, c := d.getLsbD 0 } := by
  revert d; decide +kernel

end Sys2Proof.Machine
end

