-- ==== Sys2Proof/Laws/Memory.lean ====
section
/-!
SUPPORT. The laws of `Mem`: a read after a write, and that every operation keeps the canonical form.
-/
namespace Sys2Proof.Machine

@[simp] theorem Mem.read_nil {w : Nat} (a : Nat) : Mem.read ([] : Mem w) a = 0 := rfl

theorem Mem.read_cons {w : Nat} (k : Nat) (v : BitVec w) (m : Mem w) (a : Nat) :
    Mem.read ((k, v) :: m : Mem w) a = if k = a then v else Mem.read m a := rfl

/-- Dropping the entries of another index changes no read. -/
theorem Mem.read_filter_ne {w : Nat} (m : Mem w) {a b : Nat} (h : b ≠ a) :
    Mem.read (m.filter fun cell => cell.1 != a : Mem w) b = Mem.read m b := by
  induction m with
  | nil => rfl
  | cons cell m ih =>
    obtain ⟨k, v⟩ := cell
    by_cases hk : k = a
    · simp [hk, Mem.read_cons, ih, Ne.symm h]
    · simp [hk, Mem.read_cons, ih]

/-- Dropping the entries of an index makes it read 0. -/
theorem Mem.read_filter_self {w : Nat} (m : Mem w) (a : Nat) :
    Mem.read (m.filter fun cell => cell.1 != a : Mem w) a = 0 := by
  induction m with
  | nil => rfl
  | cons cell m ih =>
    obtain ⟨k, v⟩ := cell
    by_cases hk : k = a
    · simpa [List.filter_cons, hk] using ih
    · simpa [List.filter_cons, hk, Mem.read_cons] using ih

theorem Mem.read_insert_ne {w : Nat} (m : Mem w) {a b : Nat} (d : BitVec w) (h : b ≠ a) :
    Mem.read (Mem.insert m a d) b = Mem.read m b := by
  induction m with
  | nil => simp [Mem.insert, Mem.read_cons, Ne.symm h]
  | cons cell m ih =>
    obtain ⟨k, v⟩ := cell
    by_cases hk : a < k
    · simp [Mem.insert, hk, Mem.read_cons, Ne.symm h]
    · simp [Mem.insert, hk, Mem.read_cons, ih]

/-- Inserting an index that reads 0 everywhere else in the list makes it read the new value. -/
theorem Mem.read_insert_self {w : Nat} (m : Mem w) (a : Nat) (d : BitVec w) (h : ∀ cell ∈ m, cell.1 ≠ a) :
    Mem.read (Mem.insert m a d) a = d := by
  induction m with
  | nil => simp [Mem.insert, Mem.read_cons]
  | cons cell m ih =>
    obtain ⟨k, v⟩ := cell
    have hka : k ≠ a := h (k, v) (by simp)
    by_cases hk : a < k
    · simp [Mem.insert, hk, Mem.read_cons]
    · have := ih fun c hc => h c (by simp [hc])
      simp [Mem.insert, hk, Mem.read_cons, hka, this]

theorem Mem.write_zero {w : Nat} (m : Mem w) (a : Nat) : Mem.write m a 0#w = m.filter fun cell => cell.1 != a := by
  simp [Mem.write]

theorem Mem.write_of_ne {w : Nat} (m : Mem w) (a : Nat) {d : BitVec w} (hd : d ≠ 0#w) :
    Mem.write m a d = Mem.insert (m.filter fun cell => cell.1 != a) a d := by
  have hd' : ¬ d = 0 := hd
  rw [Mem.write, if_neg hd']

/-- A read after a write to the same index gives the value written. -/
@[simp] theorem Mem.read_write_same {w : Nat} (m : Mem w) (a : Nat) (d : BitVec w) :
    Mem.read (Mem.write m a d) a = d := by
  by_cases hd : d = 0#w
  · subst hd; rw [Mem.write_zero, Mem.read_filter_self]; rfl
  · have : ∀ cell ∈ m.filter fun cell => cell.1 != a, cell.1 ≠ a := by
      intro cell hc
      simpa using (List.mem_filter.mp hc).2
    rw [Mem.write_of_ne m a hd, Mem.read_insert_self _ _ _ this]

/-- A write leaves every other index alone. -/
theorem Mem.read_write_ne {w : Nat} (m : Mem w) {a b : Nat} (d : BitVec w) (h : b ≠ a) :
    Mem.read (Mem.write m a d) b = Mem.read m b := by
  by_cases hd : d = 0#w
  · subst hd; rw [Mem.write_zero, Mem.read_filter_ne m h]
  · rw [Mem.write_of_ne m a hd, Mem.read_insert_ne _ d h, Mem.read_filter_ne m h]

/-- Both laws of a write at once. -/
theorem Mem.read_write {w : Nat} (m : Mem w) (a b : Nat) (d : BitVec w) :
    Mem.read (Mem.write m a d) b = if b = a then d else Mem.read m b := by
  by_cases h : b = a
  · simp [h]
  · simp [h, Mem.read_write_ne m d h]

/-! ## The canonical form -/

theorem Mem.risingFrom_mono {w lo lo' : Nat} (m : Mem w) (h : lo' ≤ lo) (hm : Mem.risingFrom lo m = true) :
    Mem.risingFrom lo' m = true := by
  cases m with
  | nil => rfl
  | cons cell m =>
    obtain ⟨k, v⟩ := cell
    simp only [Mem.risingFrom, Bool.and_eq_true, decide_eq_true_eq, bne_iff_ne, ne_eq, BitVec.ofNat_eq_ofNat] at hm ⊢
    exact ⟨⟨by omega, hm.1.2⟩, hm.2⟩

theorem Mem.risingFrom_filter {w lo : Nat} (m : Mem w) (a : Nat) (hm : Mem.risingFrom lo m = true) :
    Mem.risingFrom lo (m.filter fun cell => cell.1 != a : Mem w) = true := by
  induction m generalizing lo with
  | nil => rfl
  | cons cell m ih =>
    obtain ⟨k, v⟩ := cell
    simp only [Mem.risingFrom, Bool.and_eq_true, decide_eq_true_eq, bne_iff_ne, ne_eq, BitVec.ofNat_eq_ofNat] at hm
    have hrest := ih hm.2
    by_cases hk : k = a
    · simpa [List.filter_cons, hk] using Mem.risingFrom_mono _ (by omega) hrest
    · simp [hk, Mem.risingFrom, hm.1.1, hrest, hm.1.2]

theorem Mem.risingFrom_insert {w lo : Nat} (m : Mem w) (a : Nat) (d : BitVec w) (hd : d ≠ 0#w) (hlo : lo ≤ a)
    (hm : Mem.risingFrom lo m = true) (ha : ∀ cell ∈ m, cell.1 ≠ a) :
    Mem.risingFrom lo (Mem.insert m a d) = true := by
  induction m generalizing lo with
  | nil => simp [Mem.insert, Mem.risingFrom, hlo, hd]
  | cons cell m ih =>
    obtain ⟨k, v⟩ := cell
    simp only [Mem.risingFrom, Bool.and_eq_true, decide_eq_true_eq, bne_iff_ne, ne_eq, BitVec.ofNat_eq_ofNat] at hm
    have hka : k ≠ a := ha (k, v) (by simp)
    by_cases hk : a < k
    · have : a + 1 ≤ k := hk
      simp [Mem.insert, hk, Mem.risingFrom, hlo, hd, this, hm.2, hm.1.2]
    · have hrest := ih (lo := k + 1) (by omega) hm.2 fun c hc => ha c (by simp [hc])
      simp [Mem.insert, hk, Mem.risingFrom, hm.1.1, hrest, hm.1.2]

theorem Mem.mem_insert {w : Nat} {m : Mem w} {a : Nat} {d : BitVec w} {cell : Nat × BitVec w}
    (h : cell ∈ Mem.insert m a d) : cell = (a, d) ∨ cell ∈ m := by
  induction m with
  | nil => simpa [Mem.insert] using h
  | cons head m ih =>
    obtain ⟨k, v⟩ := head
    by_cases hk : a < k
    · simpa [Mem.insert, hk] using h
    · simp only [Mem.insert, hk, if_false, List.mem_cons] at h ⊢
      rcases h with h | h
      · exact .inr (.inl h)
      · exact (ih h).imp id .inr

/-- The empty memory is in canonical form. -/
@[simp] theorem Mem.wf_nil {w : Nat} (size : Nat) : Mem.wf size ([] : Mem w) = true := rfl

/-- A write inside the size keeps the canonical form. -/
theorem Mem.wf_write {w size : Nat} (m : Mem w) (a : Nat) (d : BitVec w) (hm : Mem.wf size m = true)
    (ha : a < size) : Mem.wf size (Mem.write m a d) = true := by
  simp only [Mem.wf, Bool.and_eq_true, List.all_eq_true, decide_eq_true_eq] at hm ⊢
  have hrise := Mem.risingFrom_filter m a hm.1
  have hne : ∀ cell ∈ m.filter fun cell => cell.1 != a, cell.1 ≠ a := by
    intro cell hc
    simpa using (List.mem_filter.mp hc).2
  have hall : ∀ cell ∈ m.filter fun cell => cell.1 != a, cell.1 < size := fun cell hc =>
    hm.2 cell (List.mem_filter.mp hc).1
  by_cases hd : d = 0#w
  · subst hd; rw [Mem.write_zero]; exact ⟨hrise, hall⟩
  · rw [Mem.write_of_ne m a hd]
    refine ⟨Mem.risingFrom_insert _ a d hd (Nat.zero_le _) hrise hne, fun cell hc => ?_⟩
    rcases Mem.mem_insert hc with rfl | hc
    · exact ha
    · exact hall cell hc

end Sys2Proof.Machine
end

