-- ==== Sys2Proof/Laws/State.lean ====
section
/-!
SUPPORT. One lemma per field and update of the machine, true by unfolding, so that no proof unfolds a record update; and the
closed forms of `Res`.
-/
namespace Sys2Proof.Machine

/-! ## `Res` -/

@[simp] theorem Res.bind_ok {α β : Type} (v : α) (s : State) (k : α → State → Res β) : (Res.ok v s).bind k = k v s := rfl

@[simp] theorem Res.bind_raised {α β : Type} (f : Fault) (s : State) (k : α → State → Res β) :
    (Res.raised f s : Res α).bind k = .raised f s := rfl

@[simp] theorem Res.outcome_ok (u : Unit) (s : State) : (Res.ok u s).outcome = .next s := rfl

@[simp] theorem Res.outcome_raised (f : Fault) (s : State) :
    (Res.raised f s : Res Unit).outcome = .next { s with fault := some f } := rfl

/-- An outcome of a micro-operation is always a next state (R343). -/
theorem Res.outcome_next (r : Res Unit) : ∃ t, r.outcome = .next t := by
  cases r with
  | ok _ s => exact ⟨s, rfl⟩
  | raised f s => exact ⟨_, rfl⟩

@[simp] theorem retire_eq (op : Byte) (crossed : Bool) (extra : Nat) (s : State) :
    retire op crossed extra s =
      .ok () { s with cyclesRemaining := s.cyclesRemaining + cost s.launch op crossed extra } := rfl

/-! ## Registers -/

@[simp] theorem State.reg_a (s : State) : s.reg .a = s.a := rfl
@[simp] theorem State.reg_x (s : State) : s.reg .x = s.x := rfl
@[simp] theorem State.reg_y (s : State) : s.reg .y = s.y := rfl
@[simp] theorem State.setReg_a (s : State) (d : Byte) : s.setReg .a d = { s with a := d } := rfl
@[simp] theorem State.setReg_x (s : State) (d : Byte) : s.setReg .x d = { s with x := d } := rfl
@[simp] theorem State.setReg_y (s : State) (d : Byte) : s.setReg .y d = { s with y := d } := rfl

theorem State.reg_setReg (s : State) (r q : Reg) (d : Byte) : (s.setReg r d).reg q = if q = r then d else s.reg q := by
  cases r <;> cases q <;> rfl

@[simp] theorem State.sp_setReg (s : State) (r : Reg) (d : Byte) : (s.setReg r d).sp = s.sp := by cases r <;> rfl
@[simp] theorem State.pc_setReg (s : State) (r : Reg) (d : Byte) : (s.setReg r d).pc = s.pc := by cases r <;> rfl
@[simp] theorem State.p_setReg (s : State) (r : Reg) (d : Byte) : (s.setReg r d).p = s.p := by cases r <;> rfl
@[simp] theorem State.nmiPending_setReg (s : State) (r : Reg) (d : Byte) : (s.setReg r d).nmiPending = s.nmiPending := by cases r <;> rfl
@[simp] theorem State.cyclesRemaining_setReg (s : State) (r : Reg) (d : Byte) : (s.setReg r d).cyclesRemaining = s.cyclesRemaining := by cases r <;> rfl
@[simp] theorem State.fault_setReg (s : State) (r : Reg) (d : Byte) : (s.setReg r d).fault = s.fault := by cases r <;> rfl
@[simp] theorem State.ram_setReg (s : State) (r : Reg) (d : Byte) : (s.setReg r d).ram = s.ram := by cases r <;> rfl
@[simp] theorem State.ext_setReg (s : State) (r : Reg) (d : Byte) : (s.setReg r d).ext = s.ext := by cases r <;> rfl
@[simp] theorem State.ppu_setReg (s : State) (r : Reg) (d : Byte) : (s.setReg r d).ppu = s.ppu := by cases r <;> rfl
@[simp] theorem State.frameComplete_setReg (s : State) (r : Reg) (d : Byte) : (s.setReg r d).frameComplete = s.frameComplete := by cases r <;> rfl
@[simp] theorem State.spriteDraws_setReg (s : State) (r : Reg) (d : Byte) : (s.setReg r d).spriteDraws = s.spriteDraws := by cases r <;> rfl
@[simp] theorem State.launch_setReg (s : State) (r : Reg) (d : Byte) : (s.setReg r d).launch = s.launch := by cases r <;> rfl

/-! ## Flags -/

@[simp] theorem State.p_setNZ (s : State) (d : Byte) : (s.setNZ d).p = s.p.setNZ d := rfl
@[simp] theorem State.a_setNZ (s : State) (d : Byte) : (s.setNZ d).a = s.a := rfl
@[simp] theorem State.x_setNZ (s : State) (d : Byte) : (s.setNZ d).x = s.x := rfl
@[simp] theorem State.y_setNZ (s : State) (d : Byte) : (s.setNZ d).y = s.y := rfl
@[simp] theorem State.sp_setNZ (s : State) (d : Byte) : (s.setNZ d).sp = s.sp := rfl
@[simp] theorem State.pc_setNZ (s : State) (d : Byte) : (s.setNZ d).pc = s.pc := rfl
@[simp] theorem State.nmiPending_setNZ (s : State) (d : Byte) : (s.setNZ d).nmiPending = s.nmiPending := rfl
@[simp] theorem State.cyclesRemaining_setNZ (s : State) (d : Byte) : (s.setNZ d).cyclesRemaining = s.cyclesRemaining := rfl
@[simp] theorem State.fault_setNZ (s : State) (d : Byte) : (s.setNZ d).fault = s.fault := rfl
@[simp] theorem State.ram_setNZ (s : State) (d : Byte) : (s.setNZ d).ram = s.ram := rfl
@[simp] theorem State.ext_setNZ (s : State) (d : Byte) : (s.setNZ d).ext = s.ext := rfl
@[simp] theorem State.ppu_setNZ (s : State) (d : Byte) : (s.setNZ d).ppu = s.ppu := rfl
@[simp] theorem State.frameComplete_setNZ (s : State) (d : Byte) : (s.setNZ d).frameComplete = s.frameComplete := rfl
@[simp] theorem State.spriteDraws_setNZ (s : State) (d : Byte) : (s.setNZ d).spriteDraws = s.spriteDraws := rfl
@[simp] theorem State.launch_setNZ (s : State) (d : Byte) : (s.setNZ d).launch = s.launch := rfl

@[simp] theorem State.p_setCarry (s : State) (c : Bool) : (s.setCarry c).p = { s.p with c := c } := rfl
@[simp] theorem State.a_setCarry (s : State) (c : Bool) : (s.setCarry c).a = s.a := rfl
@[simp] theorem State.x_setCarry (s : State) (c : Bool) : (s.setCarry c).x = s.x := rfl
@[simp] theorem State.y_setCarry (s : State) (c : Bool) : (s.setCarry c).y = s.y := rfl
@[simp] theorem State.sp_setCarry (s : State) (c : Bool) : (s.setCarry c).sp = s.sp := rfl
@[simp] theorem State.pc_setCarry (s : State) (c : Bool) : (s.setCarry c).pc = s.pc := rfl
@[simp] theorem State.nmiPending_setCarry (s : State) (c : Bool) : (s.setCarry c).nmiPending = s.nmiPending := rfl
@[simp] theorem State.cyclesRemaining_setCarry (s : State) (c : Bool) : (s.setCarry c).cyclesRemaining = s.cyclesRemaining := rfl
@[simp] theorem State.fault_setCarry (s : State) (c : Bool) : (s.setCarry c).fault = s.fault := rfl
@[simp] theorem State.ram_setCarry (s : State) (c : Bool) : (s.setCarry c).ram = s.ram := rfl
@[simp] theorem State.ext_setCarry (s : State) (c : Bool) : (s.setCarry c).ext = s.ext := rfl
@[simp] theorem State.ppu_setCarry (s : State) (c : Bool) : (s.setCarry c).ppu = s.ppu := rfl
@[simp] theorem State.frameComplete_setCarry (s : State) (c : Bool) : (s.setCarry c).frameComplete = s.frameComplete := rfl
@[simp] theorem State.spriteDraws_setCarry (s : State) (c : Bool) : (s.setCarry c).spriteDraws = s.spriteDraws := rfl
@[simp] theorem State.launch_setCarry (s : State) (c : Bool) : (s.setCarry c).launch = s.launch := rfl

@[simp] theorem Flags.n_setNZ (p : Flags) (d : Byte) : (p.setNZ d).n = d.getLsbD 7 := rfl
@[simp] theorem Flags.z_setNZ (p : Flags) (d : Byte) : (p.setNZ d).z = (d == 0) := rfl
@[simp] theorem Flags.v_setNZ (p : Flags) (d : Byte) : (p.setNZ d).v = p.v := rfl
@[simp] theorem Flags.u_setNZ (p : Flags) (d : Byte) : (p.setNZ d).u = p.u := rfl
@[simp] theorem Flags.b_setNZ (p : Flags) (d : Byte) : (p.setNZ d).b = p.b := rfl
@[simp] theorem Flags.d_setNZ (p : Flags) (d : Byte) : (p.setNZ d).d = p.d := rfl
@[simp] theorem Flags.i_setNZ (p : Flags) (d : Byte) : (p.setNZ d).i = p.i := rfl
@[simp] theorem Flags.c_setNZ (p : Flags) (d : Byte) : (p.setNZ d).c = p.c := rfl

@[simp] theorem State.reg_setNZ (s : State) (r : Reg) (d : Byte) : (s.setNZ d).reg r = s.reg r := by cases r <;> rfl

/-! ## The count of owed cycles -/

@[simp] theorem countDown_cyclesRemaining (s : State) : (countDown s).cyclesRemaining = s.cyclesRemaining - 1 := rfl
@[simp] theorem countDown_a (s : State) : (countDown s).a = s.a := rfl
@[simp] theorem countDown_x (s : State) : (countDown s).x = s.x := rfl
@[simp] theorem countDown_y (s : State) : (countDown s).y = s.y := rfl
@[simp] theorem countDown_sp (s : State) : (countDown s).sp = s.sp := rfl
@[simp] theorem countDown_pc (s : State) : (countDown s).pc = s.pc := rfl
@[simp] theorem countDown_p (s : State) : (countDown s).p = s.p := rfl
@[simp] theorem countDown_nmiPending (s : State) : (countDown s).nmiPending = s.nmiPending := rfl
@[simp] theorem countDown_fault (s : State) : (countDown s).fault = s.fault := rfl
@[simp] theorem countDown_ram (s : State) : (countDown s).ram = s.ram := rfl
@[simp] theorem countDown_ext (s : State) : (countDown s).ext = s.ext := rfl
@[simp] theorem countDown_ppu (s : State) : (countDown s).ppu = s.ppu := rfl
@[simp] theorem countDown_frameComplete (s : State) : (countDown s).frameComplete = s.frameComplete := rfl
@[simp] theorem countDown_spriteDraws (s : State) : (countDown s).spriteDraws = s.spriteDraws := rfl
@[simp] theorem countDown_launch (s : State) : (countDown s).launch = s.launch := rfl

/-! ## Storage -/

@[simp] theorem pokeByte_a (a : Word) (d : Byte) (s : State) : (pokeByte a d s).a = s.a := by unfold pokeByte; split <;> rfl
@[simp] theorem pokeByte_x (a : Word) (d : Byte) (s : State) : (pokeByte a d s).x = s.x := by unfold pokeByte; split <;> rfl
@[simp] theorem pokeByte_y (a : Word) (d : Byte) (s : State) : (pokeByte a d s).y = s.y := by unfold pokeByte; split <;> rfl
@[simp] theorem pokeByte_sp (a : Word) (d : Byte) (s : State) : (pokeByte a d s).sp = s.sp := by unfold pokeByte; split <;> rfl
@[simp] theorem pokeByte_pc (a : Word) (d : Byte) (s : State) : (pokeByte a d s).pc = s.pc := by unfold pokeByte; split <;> rfl
@[simp] theorem pokeByte_p (a : Word) (d : Byte) (s : State) : (pokeByte a d s).p = s.p := by unfold pokeByte; split <;> rfl
@[simp] theorem pokeByte_nmiPending (a : Word) (d : Byte) (s : State) : (pokeByte a d s).nmiPending = s.nmiPending := by unfold pokeByte; split <;> rfl
@[simp] theorem pokeByte_cyclesRemaining (a : Word) (d : Byte) (s : State) : (pokeByte a d s).cyclesRemaining = s.cyclesRemaining := by unfold pokeByte; split <;> rfl
@[simp] theorem pokeByte_fault (a : Word) (d : Byte) (s : State) : (pokeByte a d s).fault = s.fault := by unfold pokeByte; split <;> rfl
@[simp] theorem pokeByte_ppu (a : Word) (d : Byte) (s : State) : (pokeByte a d s).ppu = s.ppu := by unfold pokeByte; split <;> rfl
@[simp] theorem pokeByte_frameComplete (a : Word) (d : Byte) (s : State) : (pokeByte a d s).frameComplete = s.frameComplete := by unfold pokeByte; split <;> rfl
@[simp] theorem pokeByte_spriteDraws (a : Word) (d : Byte) (s : State) : (pokeByte a d s).spriteDraws = s.spriteDraws := by unfold pokeByte; split <;> rfl
@[simp] theorem pokeByte_launch (a : Word) (d : Byte) (s : State) : (pokeByte a d s).launch = s.launch := by unfold pokeByte; split <;> rfl

@[simp] theorem State.afterRead_a (s : State) (a : Word) : (s.afterRead a).a = s.a := by
  unfold State.afterRead; repeat' split
  all_goals rfl
@[simp] theorem State.afterRead_x (s : State) (a : Word) : (s.afterRead a).x = s.x := by
  unfold State.afterRead; repeat' split
  all_goals rfl
@[simp] theorem State.afterRead_y (s : State) (a : Word) : (s.afterRead a).y = s.y := by
  unfold State.afterRead; repeat' split
  all_goals rfl
@[simp] theorem State.afterRead_sp (s : State) (a : Word) : (s.afterRead a).sp = s.sp := by
  unfold State.afterRead; repeat' split
  all_goals rfl
@[simp] theorem State.afterRead_pc (s : State) (a : Word) : (s.afterRead a).pc = s.pc := by
  unfold State.afterRead; repeat' split
  all_goals rfl
@[simp] theorem State.afterRead_p (s : State) (a : Word) : (s.afterRead a).p = s.p := by
  unfold State.afterRead; repeat' split
  all_goals rfl
@[simp] theorem State.afterRead_nmiPending (s : State) (a : Word) : (s.afterRead a).nmiPending = s.nmiPending := by
  unfold State.afterRead; repeat' split
  all_goals rfl
@[simp] theorem State.afterRead_cyclesRemaining (s : State) (a : Word) : (s.afterRead a).cyclesRemaining = s.cyclesRemaining := by
  unfold State.afterRead; repeat' split
  all_goals rfl
@[simp] theorem State.afterRead_fault (s : State) (a : Word) : (s.afterRead a).fault = s.fault := by
  unfold State.afterRead; repeat' split
  all_goals rfl
@[simp] theorem State.afterRead_ram (s : State) (a : Word) : (s.afterRead a).ram = s.ram := by
  unfold State.afterRead; repeat' split
  all_goals rfl
@[simp] theorem State.afterRead_ext (s : State) (a : Word) : (s.afterRead a).ext = s.ext := by
  unfold State.afterRead; repeat' split
  all_goals rfl
@[simp] theorem State.afterRead_frameComplete (s : State) (a : Word) : (s.afterRead a).frameComplete = s.frameComplete := by
  unfold State.afterRead; repeat' split
  all_goals rfl
@[simp] theorem State.afterRead_spriteDraws (s : State) (a : Word) : (s.afterRead a).spriteDraws = s.spriteDraws := by
  unfold State.afterRead; repeat' split
  all_goals rfl
@[simp] theorem State.afterRead_launch (s : State) (a : Word) : (s.afterRead a).launch = s.launch := by
  unfold State.afterRead; repeat' split
  all_goals rfl

@[simp] theorem State.afterWrite_a (s : State) (a : Word) (d : Byte) : (s.afterWrite a d).a = s.a := by
  unfold State.afterWrite; repeat' split
  all_goals rfl
@[simp] theorem State.afterWrite_x (s : State) (a : Word) (d : Byte) : (s.afterWrite a d).x = s.x := by
  unfold State.afterWrite; repeat' split
  all_goals rfl
@[simp] theorem State.afterWrite_y (s : State) (a : Word) (d : Byte) : (s.afterWrite a d).y = s.y := by
  unfold State.afterWrite; repeat' split
  all_goals rfl
@[simp] theorem State.afterWrite_sp (s : State) (a : Word) (d : Byte) : (s.afterWrite a d).sp = s.sp := by
  unfold State.afterWrite; repeat' split
  all_goals rfl
@[simp] theorem State.afterWrite_pc (s : State) (a : Word) (d : Byte) : (s.afterWrite a d).pc = s.pc := by
  unfold State.afterWrite; repeat' split
  all_goals rfl
@[simp] theorem State.afterWrite_p (s : State) (a : Word) (d : Byte) : (s.afterWrite a d).p = s.p := by
  unfold State.afterWrite; repeat' split
  all_goals rfl
@[simp] theorem State.afterWrite_nmiPending (s : State) (a : Word) (d : Byte) : (s.afterWrite a d).nmiPending = s.nmiPending := by
  unfold State.afterWrite; repeat' split
  all_goals rfl
@[simp] theorem State.afterWrite_cyclesRemaining (s : State) (a : Word) (d : Byte) : (s.afterWrite a d).cyclesRemaining = s.cyclesRemaining := by
  unfold State.afterWrite; repeat' split
  all_goals rfl
@[simp] theorem State.afterWrite_fault (s : State) (a : Word) (d : Byte) : (s.afterWrite a d).fault = s.fault := by
  unfold State.afterWrite; repeat' split
  all_goals rfl
@[simp] theorem State.afterWrite_frameComplete (s : State) (a : Word) (d : Byte) : (s.afterWrite a d).frameComplete = s.frameComplete := by
  unfold State.afterWrite; repeat' split
  all_goals rfl
@[simp] theorem State.afterWrite_spriteDraws (s : State) (a : Word) (d : Byte) : (s.afterWrite a d).spriteDraws = s.spriteDraws := by
  unfold State.afterWrite; repeat' split
  all_goals rfl
@[simp] theorem State.afterWrite_launch (s : State) (a : Word) (d : Byte) : (s.afterWrite a d).launch = s.launch := by
  unfold State.afterWrite; repeat' split
  all_goals rfl

end Sys2Proof.Machine
end

