-- ==== Sys2Proof/Laws/Bus.lean ====
section
/-!
SUPPORT. What the CPU bus does, once: which addresses are plain storage, the closed forms of `memRead` and `memWrite` on each
kind of address, and read after write.
-/
namespace Sys2Proof.Machine

/-! ## Which addresses are plain storage -/

/-- The three conditions of the decoder, one at a time (R61). -/
theorem busTarget_ram {l a : Word} (h : a.toNat ≤ l.toNat) : busTarget l a = .ram (a.toNat % 0x800) := by
  simp [busTarget, h]

theorem busTarget_window {l a : Word} (hl : l.toNat < a.toNat) (h1 : 0x2000 ≤ a.toNat) (h2 : a.toNat ≤ 0x3FFF) :
    busTarget l a = .ppu (a.extractLsb' 0 3) := by
  simp only [busTarget, if_neg (Nat.not_le.mpr hl), if_pos (And.intro h1 h2)]

theorem busTarget_oamDma {l : Word} (hl : l.toNat < 0x4014) : busTarget l 0x4014 = .oamDma := by
  simp [busTarget, Nat.not_le.mpr hl]

theorem busTarget_ext {l a : Word} (hl : l.toNat < a.toNat) (hw : a.toNat < 0x2000 ∨ 0x3FFF < a.toNat) (h : a ≠ 0x4014) :
    busTarget l a = .ext a.toNat := by
  have h2 : ¬ (0x2000 ≤ a.toNat ∧ a.toNat ≤ 0x3FFF) := by omega
  simp only [busTarget, if_neg (Nat.not_le.mpr hl), if_neg h2, if_neg h]

/-- Every address outside the register window and 0x4014 is plain storage. -/
theorem State.plain_of_toNat (s : State) (a : Word) (hw : a.toNat < 0x2000 ∨ 0x3FFF < a.toNat) (h : a ≠ 0x4014) :
    s.plain a = true := by
  by_cases hl : a.toNat ≤ s.launch.ramMirrorLast.toNat
  · simp [State.plain, State.peek, State.target, busTarget_ram hl]
  · simp [State.plain, State.peek, State.target, busTarget_ext (Nat.not_le.mp hl) hw h]

@[simp] theorem toNat_zext16 (z : Byte) : (zext16 z).toNat = z.toNat := by
  have : z.toNat < 256 := z.isLt
  simp [zext16]; omega

@[simp] theorem toNat_leWord (lo hi : Byte) : (leWord lo hi).toNat = lo.toNat + 256 * hi.toNat := by
  have hlo : lo.toNat < 256 := lo.isLt
  simp only [leWord, BitVec.toNat_append]
  rw [Nat.shiftLeft_eq, Nat.mul_comm, Nat.two_pow_add_eq_or_of_lt (by simpa using hlo) hi.toNat |>.symm]
  omega

@[simp] theorem toNat_stackAddress (sp : Byte) : (stackAddress sp).toNat = 0x100 + sp.toNat := by
  simp [stackAddress]; omega

/-- The zero page is plain storage (R74). -/
@[simp] theorem State.plain_zext16 (s : State) (z : Byte) : s.plain (zext16 z) = true := by
  have hz : z.toNat < 256 := z.isLt
  apply State.plain_of_toNat
  · simp; omega
  · intro h
    have := congrArg BitVec.toNat h
    simp at this; omega

/-- The stack page is plain storage (R74). -/
@[simp] theorem State.plain_stackAddress (s : State) (sp : Byte) : s.plain (stackAddress sp) = true := by
  have hz : sp.toNat < 256 := sp.isLt
  apply State.plain_of_toNat
  · simp; omega
  · intro h
    have := congrArg BitVec.toNat h
    simp at this; omega

/-- The vectors are plain storage (R339). -/
theorem State.plain_vector (s : State) (a : Word) (h : 0xFFFA ≤ a.toNat) : s.plain a = true :=
  State.plain_of_toNat s a (.inr (by omega)) (by rintro rfl; simp at h)

/-- What a plain address selects. -/
theorem State.plain_cases {s : State} {a : Word} (h : s.plain a = true) :
    (∃ i, s.target a = .ram i ∧ s.byteAt a = Mem.read s.ram i) ∨
      (∃ i, s.target a = .ext i ∧ s.byteAt a = Mem.read s.ext i) := by
  cases ht : s.target a with
  | ram i => exact .inl ⟨i, rfl, by simp [State.byteAt, State.peek, ht]⟩
  | ext i => exact .inr ⟨i, rfl, by simp [State.byteAt, State.peek, ht]⟩
  | ppu index => simp [State.plain, State.peek, ht] at h
  | oamDma => simp [State.plain, State.peek, ht] at h

/-! ## Reads -/

theorem State.readable_of_plain {s : State} {a : Word} (h : s.plain a = true) : s.readable a = true := by
  rcases State.plain_cases h with ⟨i, ht, _⟩ | ⟨i, ht, _⟩ <;> simp [State.readable, ht]

theorem State.writable_of_plain {s : State} {a : Word} (h : s.plain a = true) : s.writable a = true := by
  rcases State.plain_cases h with ⟨i, ht, _⟩ | ⟨i, ht, _⟩ <;> simp [State.writable, ht]

theorem State.readByte_of_plain {s : State} {a : Word} (h : s.plain a = true) : s.readByte a = s.byteAt a := by
  rcases State.plain_cases h with ⟨i, ht, hb⟩ | ⟨i, ht, hb⟩ <;> simp [State.readByte, ht, hb]

theorem State.afterRead_of_plain {s : State} {a : Word} (h : s.plain a = true) : s.afterRead a = s := by
  rcases State.plain_cases h with ⟨i, ht, _⟩ | ⟨i, ht, _⟩ <;> simp [State.afterRead, ht]

theorem State.afterWrite_of_plain {s : State} {a : Word} (d : Byte) (h : s.plain a = true) :
    s.afterWrite a d = pokeByte a d s := by
  rcases State.plain_cases h with ⟨i, ht, _⟩ | ⟨i, ht, _⟩ <;> simp [State.afterWrite, pokeByte, ht]

/-- The eight register indices. -/
theorem index_cases (P : BitVec 3 → Prop) (h : P 0 ∧ P 1 ∧ P 2 ∧ P 3 ∧ P 4 ∧ P 5 ∧ P 6 ∧ P 7) (index : BitVec 3) :
    P index := by
  obtain ⟨h0, h1, h2, h3, h4, h5, h6, h7⟩ := h
  have hi : index = 0 ∨ index = 1 ∨ index = 2 ∨ index = 3 ∨ index = 4 ∨ index = 5 ∨ index = 6 ∨ index = 7 := by
    revert index; decide
  rcases hi with rfl | rfl | rfl | rfl | rfl | rfl | rfl | rfl <;> assumption

/-- MemRead of a readable address (R68). -/
theorem memRead_readable {s : State} {a : Word} (h : s.readable a = true) :
    memRead a s = .ok (s.readByte a) (s.afterRead a) := by
  cases ht : s.target a with
  | ram i => simp [memRead, State.readByte, State.afterRead, ht]
  | ext i => simp [memRead, State.readByte, State.afterRead, ht]
  | oamDma => simp [State.readable, ht] at h
  | ppu index =>
    simp only [State.readable, ht, Bool.or_eq_true, beq_iff_eq] at h
    rcases h with (rfl | rfl) | rfl <;> simp [memRead, State.readByte, State.afterRead, ht, ppuRegRead]

/-- MemRead of an address that has no read (R341). -/
theorem memRead_unreadable {s : State} {a : Word} (h : s.readable a = false) :
    memRead a s = .raised (.invalidRegisterAccess .read (canonicalAddress s a)) s := by
  cases ht : s.target a with
  | ram i => simp [State.readable, ht] at h
  | ext i => simp [State.readable, ht] at h
  | oamDma =>
    have ha : a = 0x4014 := by
      unfold State.target busTarget at ht
      split at ht
      · cases ht
      · split at ht
        · cases ht
        · split at ht
          · assumption
          · cases ht
    subst ha
    simp only [memRead, canonicalAddress, ht]
  | ppu index =>
    revert h ht
    refine index_cases (fun index => s.readable a = false → s.target a = .ppu index → _) ?_ index
    refine ⟨?_, ?_, ?_, ?_, ?_, ?_, ?_, ?_⟩ <;> intro h ht <;>
      simp [memRead, ht, ppuRegRead, canonicalAddress, State.readable] at h ⊢

/-- MemRead of plain storage changes nothing (R73). -/
theorem memRead_plain {s : State} {a : Word} (h : s.plain a = true) : memRead a s = .ok (s.byteAt a) s := by
  rw [memRead_readable (State.readable_of_plain h), State.readByte_of_plain h, State.afterRead_of_plain h]

/-- MemRead16 of plain storage (R12). -/
theorem memRead16_plain {s : State} {a : Word} (h : s.plain a = true) (h' : s.plain (a + 1) = true) :
    memRead16 a s = .ok (leWord (s.byteAt a) (s.byteAt (a + 1))) s := by
  simp only [memRead16, memRead_plain h, memRead_plain h', Res.bind_ok]

/-! ## Writes -/

/-- MemWrite of a writable address (R69). -/
theorem memWrite_writable {s : State} {a : Word} (d : Byte) (h : s.writable a = true) :
    memWrite a d s = .ok () (s.afterWrite a d) := by
  cases ht : s.target a with
  | ram i => simp [memWrite, State.afterWrite, ht]
  | ext i => simp [memWrite, State.afterWrite, ht]
  | oamDma => simp [State.writable, ht] at h
  | ppu index =>
    revert h ht
    refine index_cases (fun index => s.writable a = true → s.target a = .ppu index → _) ?_ index
    refine ⟨?_, ?_, ?_, ?_, ?_, ?_, ?_, ?_⟩ <;> intro h ht <;>
      simp [memWrite, ht, ppuRegWrite, State.afterWrite, State.writable] at h ⊢

/-- MemWrite of register index 2 (R341). -/
theorem memWrite_status {s : State} {a : Word} (d : Byte) (h : s.target a = .ppu 2) :
    memWrite a d s = .raised (.invalidRegisterAccess .write 0x2002) s := by
  simp [memWrite, h, ppuRegWrite, registerAddress]

/-- MemWrite of 0x4014 (R69). -/
theorem memWrite_oamDma {s : State} {a : Word} (d : Byte) (h : s.target a = .oamDma) : memWrite a d s = oamDma d s := by
  simp [memWrite, h]

/-- MemWrite of plain storage. -/
theorem memWrite_plain {s : State} {a : Word} (d : Byte) (h : s.plain a = true) :
    memWrite a d s = .ok () (pokeByte a d s) := by
  rw [memWrite_writable d (State.writable_of_plain h), State.afterWrite_of_plain d h]

/-! ## A store does not look at the registers -/

theorem pokeByte_with_sp (a : Word) (d : Byte) (s : State) (v : Byte) :
    pokeByte a d { s with sp := v } = { pokeByte a d s with sp := v } := by
  have h : State.target { s with sp := v } a = s.target a := rfl
  unfold pokeByte
  rw [h]
  cases s.target a <;> rfl

theorem pokeByte_with_pc (a : Word) (d : Byte) (s : State) (v : Word) :
    pokeByte a d { s with pc := v } = { pokeByte a d s with pc := v } := by
  have h : State.target { s with pc := v } a = s.target a := rfl
  unfold pokeByte
  rw [h]
  cases s.target a <;> rfl

theorem pokeByte_with_p (a : Word) (d : Byte) (s : State) (v : Flags) :
    pokeByte a d { s with p := v } = { pokeByte a d s with p := v } := by
  have h : State.target { s with p := v } a = s.target a := rfl
  unfold pokeByte
  rw [h]
  cases s.target a <;> rfl

/-! ## Read after write -/

@[simp] theorem State.target_pokeByte (s : State) (a b : Word) (d : Byte) : (pokeByte a d s).target b = s.target b := by
  simp [State.target]

@[simp] theorem State.target_afterRead (s : State) (a b : Word) : (s.afterRead a).target b = s.target b := by
  simp [State.target]

@[simp] theorem State.target_afterWrite (s : State) (a b : Word) (d : Byte) : (s.afterWrite a d).target b = s.target b := by
  simp [State.target]

/-- Whether an address can be read or written depends on the decoder alone. -/
theorem State.readable_congr {s t : State} {a : Word} (h : s.target a = t.target a) : s.readable a = t.readable a := by
  simp [State.readable, h]

theorem State.writable_congr {s t : State} {a : Word} (h : s.target a = t.target a) : s.writable a = t.writable a := by
  simp [State.writable, h]

@[simp] theorem State.readable_afterRead (s : State) (a b : Word) : (s.afterRead a).readable b = s.readable b :=
  State.readable_congr (State.target_afterRead s a b)

@[simp] theorem State.writable_afterRead (s : State) (a b : Word) : (s.afterRead a).writable b = s.writable b :=
  State.writable_congr (State.target_afterRead s a b)

/-- Whether an address is plain depends on the decoder alone. -/
theorem State.plain_congr {s t : State} {a : Word} (h : s.target a = t.target a) : s.plain a = t.plain a := by
  cases ht : t.target a <;> simp [State.plain, State.peek, h, ht]

@[simp] theorem State.plain_pokeByte (s : State) (a b : Word) (d : Byte) : (pokeByte a d s).plain b = s.plain b :=
  State.plain_congr (State.target_pokeByte s a b d)

/-- A byte of storage after a store: the byte stored where the two addresses name the same storage, else as before. -/
theorem State.byteAt_pokeByte (s : State) (a b : Word) (d : Byte) (ha : s.plain a = true) :
    (pokeByte a d s).byteAt b = if s.target b = s.target a then d else s.byteAt b := by
  rcases State.plain_cases ha with ⟨i, hta, _⟩ | ⟨i, hta, _⟩ <;>
    cases htb : s.target b <;>
      simp [State.byteAt, State.peek, htb, hta] <;> simp [pokeByte, hta, Mem.read_write]

/-- Addresses of the low 2 KB name different bytes of storage. -/
theorem State.target_inj {s : State} {a b : Word} (ha : a.toNat < 0x800) (hb : b.toNat < 0x800)
    (h : s.target a = s.target b) : a = b := by
  have key : ∀ c : Word, c.toNat < 0x800 → s.target c = .ram c.toNat ∨ s.target c = .ext c.toNat := by
    intro c hc
    by_cases hl : c.toNat ≤ s.launch.ramMirrorLast.toNat
    · exact .inl (by simp [State.target, busTarget_ram hl, Nat.mod_eq_of_lt hc])
    · refine .inr (busTarget_ext (Nat.not_le.mp hl) (.inl (by omega)) ?_)
      rintro rfl
      simp at hc
  apply BitVec.eq_of_toNat_eq
  rcases key a ha with ea | ea <;> rcases key b hb with eb | eb <;> rw [ea, eb] at h <;> simp_all

end Sys2Proof.Machine
end

