-- ==== Sys2Proof/Laws/Operands.lean ====
section
/-!
SUPPORT. The closed forms of the stack primitives, of taking and leaving a trap, of the resolvers and of reading an operand:
what each gives and what it leaves.
-/
namespace Sys2Proof.Machine

/-! ## The stack -/

/-- Push (R170) never raises: the stack page is plain storage. -/
@[simp] theorem push_eq (d : Byte) (s : State) :
    push d s = .ok () { pokeByte (stackAddress s.sp) d s with sp := s.sp - 1 } := by
  simp [push, memWrite_plain d (State.plain_stackAddress s s.sp)]

/-- Pull (R171) never raises. -/
@[simp] theorem pull_eq (s : State) : pull s = .ok (s.stacked 1) { s with sp := s.sp + 1 } := by
  simp only [pull]
  rw [memRead_plain (State.plain_stackAddress _ _)]
  rfl

/-- Push16 (R171). -/
@[simp] theorem push16_eq (w : Word) (s : State) : push16 w s = .ok () (s.pushed [hiByte w, loByte w]) := by
  simp [push16, State.pushed]

theorem State.stacked_two (s : State) : State.stacked { s with sp := s.sp + 1 } 1 = s.stacked 2 := by
  show s.byteAt (stackAddress (s.sp + 1 + 1)) = s.byteAt (stackAddress (s.sp + 2))
  rw [BitVec.add_assoc]; rfl

/-- Pull16 (R171). -/
@[simp] theorem pull16_eq (s : State) :
    pull16 s = .ok (leWord (s.stacked 1) (s.stacked 2)) { s with sp := s.sp + 2 } := by
  have h : s.sp + 1 + 1 = s.sp + 2 := by rw [BitVec.add_assoc]; rfl
  simp only [pull16, pull_eq, Res.bind_ok, State.stacked_two, h]

@[simp] theorem State.pushed_nil (s : State) : s.pushed [] = s := rfl

@[simp] theorem State.launch_pushed (bytes : List Byte) (s : State) : (s.pushed bytes).launch = s.launch := by
  induction bytes generalizing s with
  | nil => rfl
  | cons d rest ih => simp [State.pushed, ih]

@[simp] theorem State.p_pushed (bytes : List Byte) (s : State) : (s.pushed bytes).p = s.p := by
  induction bytes generalizing s with
  | nil => rfl
  | cons d rest ih => simp [State.pushed, ih]

@[simp] theorem State.pc_pushed (bytes : List Byte) (s : State) : (s.pushed bytes).pc = s.pc := by
  induction bytes generalizing s with
  | nil => rfl
  | cons d rest ih => simp [State.pushed, ih]

@[simp] theorem State.cyclesRemaining_pushed (bytes : List Byte) (s : State) :
    (s.pushed bytes).cyclesRemaining = s.cyclesRemaining := by
  induction bytes generalizing s with
  | nil => rfl
  | cons d rest ih => simp [State.pushed, ih]

theorem State.pushed_with_pc (bytes : List Byte) (s : State) (w : Word) :
    State.pushed bytes { s with pc := w } = { s.pushed bytes with pc := w } := by
  induction bytes generalizing s with
  | nil => rfl
  | cons d rest ih =>
    simp only [State.pushed, pokeByte_with_pc]
    exact ih { pokeByte (stackAddress s.sp) d s with sp := s.sp - 1 }

/-- A byte read is a matter of storage and decoder alone. -/
theorem State.byteAt_congr {s t : State} (hr : s.ram = t.ram) (he : s.ext = t.ext) (hl : s.launch = t.launch) (a : Word) :
    s.byteAt a = t.byteAt a := by
  simp [State.byteAt, State.peek, State.target, hr, he, hl]

/-- Taking a trap (R223, R335) never raises. -/
theorem enterTrap_eq (returnTo : Word) (pushedP : Byte) (vector : Word) (s : State) (h : 0xFFFA ≤ vector.toNat)
    (h' : 0xFFFA ≤ (vector + 1).toNat) :
    enterTrap returnTo pushedP vector s =
      .ok () { s.pushed [hiByte returnTo, loByte returnTo, pushedP] with
        p := { s.p with i := true }
        pc := (s.pushed [hiByte returnTo, loByte returnTo, pushedP]).wordAt vector } := by
  simp only [enterTrap, push16_eq, push_eq, Res.bind_ok]
  rw [memRead16_plain (State.plain_vector _ _ h) (State.plain_vector _ _ h')]
  simp only [Res.bind_ok, State.pushed, pokeByte_p]
  congr 1

/-- Returning from a trap (R224) never raises. -/
theorem returnFromTrap_eq (s : State) :
    returnFromTrap s =
      .ok () { s with sp := s.sp + 3, p := Flags.pulled (s.stacked 1), pc := leWord (s.stacked 2) (s.stacked 3) } := by
  have h (k n : Byte) (e : 1 + k = n) :
      State.stacked { { s with sp := s.sp + 1 } with p := Flags.pulled (s.stacked 1) } k = s.stacked n := by
    show s.byteAt (stackAddress (s.sp + 1 + k)) = s.byteAt (stackAddress (s.sp + n))
    rw [BitVec.add_assoc, e]
  have h3 : s.sp + 1 + 2 = s.sp + 3 := by rw [BitVec.add_assoc]; rfl
  simp only [returnFromTrap, pull_eq, pull16_eq, Res.bind_ok, h 1 2 rfl, h 2 3 rfl, h3]

/-! ## Resolvers and operands -/

/-- The stack address in numbers (R24). -/
theorem stackAddress_eq (sp : Byte) : stackAddress sp = BitVec.ofNat 16 (0x100 + sp.toNat) := by
  apply BitVec.eq_of_toNat_eq
  have := sp.isLt
  rw [toNat_stackAddress, BitVec.toNat_ofNat]
  omega

/-- The second pointer address of an indirect jump in numbers (R143). -/
theorem leWord_pageWrap (a : Word) :
    leWord (loByte a + 1) (hiByte a) = if a.toNat % 256 = 255 then a - 255 else a + 1 := by
  apply BitVec.eq_of_toNat_eq
  have ha := a.isLt
  have hlo : (loByte a + 1).toNat = (a.toNat % 256 + 1) % 256 := by simp [loByte, BitVec.toNat_add]
  have hhi : (hiByte a).toNat = a.toNat / 256 := by simp [hiByte, Nat.shiftRight_eq_div_pow]; omega
  rw [toNat_leWord, hlo, hhi]
  split
  · rw [BitVec.toNat_sub, show BitVec.toNat (255 : Word) = 255 from rfl]; omega
  · rw [BitVec.toNat_add, show BitVec.toNat (1 : Word) = 1 from rfl]; omega

/-- The branch target in numbers (R139). -/
theorem branchTarget_eq (d : Byte) (s : State) : branchTarget d s = BitVec.ofInt 16 (s.pc.toNat + d.toInt) := by
  rw [branchTarget, sext16, BitVec.signExtend, BitVec.ofInt_add, BitVec.ofInt_natCast, BitVec.ofNat_toNat, BitVec.setWidth_eq]

/-- PageCross in numbers (R146). -/
theorem pageCross_eq (base ea : Word) : pageCross base ea = decide (base.toNat / 256 ≠ ea.toNat / 256) := by
  have h (w : Word) : (hiByte w).toNat = w.toNat / 256 := by
    have := w.isLt
    simp [hiByte, Nat.shiftRight_eq_div_pow]; omega
  rw [pageCross, ← h, ← h, Bool.eq_iff_iff, bne_iff_ne, decide_eq_true_iff, ne_eq, ne_eq, BitVec.toNat_inj]

/-- The extra cycles of a taken branch in numbers (R225). -/
theorem branchExtra_eq (s : State) (target : Word) :
    branchExtra s target = if target.toNat / 256 = s.pc.toNat / 256 then 1 else 2 := by
  rw [branchExtra, pageCross_eq]
  split <;> split <;> simp_all

theorem zeroPagePointer_eq (p : Byte) (s : State) : zeroPagePointer p s = .ok (pointerAt s p) s := by
  simp only [zeroPagePointer, memRead_plain (State.plain_zext16 s _), Res.bind_ok, pointerAt]

/-- A resolver never raises and changes nothing (R132): its pointer reads are in the zero page. -/
@[simp] theorem resolve_eq (m : Addr) (s : State) : resolve m s = .ok (effective s m) s := by
  cases m <;> simp [resolve, effective, zeroPagePointer_eq, indexed]

/-- The operand of an instruction, where it can be read (R135, R146). -/
theorem readSource_readable {src : Source} {s : State} (h : src.readable s = true) :
    readSource src s = .ok ⟨src.value s, src.crossed s⟩ (src.after s) := by
  cases src with
  | imm m => rfl
  | mem m =>
    simp only [readSource, resolve_eq, Res.bind_ok, memRead_readable (show s.readable (effective s m).ea = true from h)]
    rfl

/-- The operand of an instruction, where it cannot be read (R341). -/
theorem readSource_unreadable {m : Addr} {s : State} (h : s.readable (effective s m).ea = false) :
    readSource (.mem m) s = .raised (.invalidRegisterAccess .read (canonicalAddress s (effective s m).ea)) s := by
  simp only [readSource, resolve_eq, Res.bind_ok, memRead_unreadable h, Res.bind_raised]

/-- The state after an operand read differs from the one before at most in the PPU. -/
theorem Source.after_cases (src : Source) (s : State) : ∃ p, src.after s = { s with ppu := p } := by
  cases src with
  | imm m => exact ⟨s.ppu, rfl⟩
  | mem m =>
    show ∃ p, s.afterRead (effective s m).ea = _
    unfold State.afterRead
    repeat' split
    all_goals exact ⟨_, rfl⟩

@[simp] theorem Source.after_a (src : Source) (s : State) : (src.after s).a = s.a := by
  cases src
  · rfl
  · exact State.afterRead_a s _

@[simp] theorem Source.after_x (src : Source) (s : State) : (src.after s).x = s.x := by
  cases src
  · rfl
  · exact State.afterRead_x s _

@[simp] theorem Source.after_y (src : Source) (s : State) : (src.after s).y = s.y := by
  cases src
  · rfl
  · exact State.afterRead_y s _

@[simp] theorem Source.after_sp (src : Source) (s : State) : (src.after s).sp = s.sp := by
  cases src
  · rfl
  · exact State.afterRead_sp s _

@[simp] theorem Source.after_pc (src : Source) (s : State) : (src.after s).pc = s.pc := by
  cases src
  · rfl
  · exact State.afterRead_pc s _

@[simp] theorem Source.after_p (src : Source) (s : State) : (src.after s).p = s.p := by
  cases src
  · rfl
  · exact State.afterRead_p s _

@[simp] theorem Source.after_nmiPending (src : Source) (s : State) : (src.after s).nmiPending = s.nmiPending := by
  cases src
  · rfl
  · exact State.afterRead_nmiPending s _

@[simp] theorem Source.after_cyclesRemaining (src : Source) (s : State) : (src.after s).cyclesRemaining = s.cyclesRemaining := by
  cases src
  · rfl
  · exact State.afterRead_cyclesRemaining s _

@[simp] theorem Source.after_fault (src : Source) (s : State) : (src.after s).fault = s.fault := by
  cases src
  · rfl
  · exact State.afterRead_fault s _

@[simp] theorem Source.after_ram (src : Source) (s : State) : (src.after s).ram = s.ram := by
  cases src
  · rfl
  · exact State.afterRead_ram s _

@[simp] theorem Source.after_ext (src : Source) (s : State) : (src.after s).ext = s.ext := by
  cases src
  · rfl
  · exact State.afterRead_ext s _

@[simp] theorem Source.after_frameComplete (src : Source) (s : State) : (src.after s).frameComplete = s.frameComplete := by
  cases src
  · rfl
  · exact State.afterRead_frameComplete s _

@[simp] theorem Source.after_spriteDraws (src : Source) (s : State) : (src.after s).spriteDraws = s.spriteDraws := by
  cases src
  · rfl
  · exact State.afterRead_spriteDraws s _

@[simp] theorem Source.after_launch (src : Source) (s : State) : (src.after s).launch = s.launch := by
  cases src
  · rfl
  · exact State.afterRead_launch s _

end Sys2Proof.Machine
end

