-- ==== Sys2Proof/Laws/Bodies.lean ====
section
/-!
SUPPORT. The closed form of each shared instruction body: the state it ends in where its accesses can be made, and the state
it ends in where one of them raises.
-/
namespace Sys2Proof.Machine

/-- The flags after SetNZ. -/
theorem Flags.setNZ_eq (p : Flags) (d : Byte) : p.setNZ d = { p with n := d.getLsbD 7, z := d == 0 } := rfl

theorem load_eq {op : Byte} {r : Reg} {src : Source} {s : State} (h : src.readable s = true) :
    load op r src s = .ok () { (src.after s).setReg r (src.value s) with
      p := { s.p with n := (src.value s).getLsbD 7, z := src.value s == 0 }
      cyclesRemaining := s.cyclesRemaining + cost s.launch op (src.crossed s) 0 } := by
  cases r <;> simp [load, readSource_readable h, State.setNZ, Flags.setNZ]

theorem load_raises {op : Byte} {r : Reg} {m : Addr} {s : State} (h : s.readable (effective s m).ea = false) :
    load op r (.mem m) s = .raised (.invalidRegisterAccess .read (canonicalAddress s (effective s m).ea)) s := by
  simp [load, readSource_unreadable h]

theorem store_eq {op : Byte} {r : Reg} {m : Addr} {s : State} (h : s.writable (effective s m).ea = true) :
    store op r m s = .ok () { s.afterWrite (effective s m).ea (s.reg r) with
      cyclesRemaining := s.cyclesRemaining + cost s.launch op (effective s m).crossed 0 } := by
  simp [store, memWrite_writable _ h]

theorem store_raises {op : Byte} {r : Reg} {m : Addr} {s : State} (h : s.target (effective s m).ea = .ppu 2) :
    store op r m s = .raised (.invalidRegisterAccess .write 0x2002) s := by
  simp only [store, resolve_eq, Res.bind_ok, memWrite_status _ h, Res.bind_raised]

theorem store_oamDma {op : Byte} {r : Reg} {m : Addr} {s : State} (h : s.target (effective s m).ea = .oamDma) :
    store op r m s = (oamDma (s.reg r) s).bind fun _ t => retire op (effective s m).crossed 0 t := by
  simp only [store, resolve_eq, Res.bind_ok, memWrite_oamDma _ h]

theorem transfer_eq (op : Byte) (r : Reg) (d : Byte) (s : State) :
    transfer op r d s = .ok () { s.setReg r d with
      p := { s.p with n := d.getLsbD 7, z := d == 0 }
      cyclesRemaining := s.cyclesRemaining + cost s.launch op false 0 } := by
  cases r <;> rfl

theorem logic_eq {op : Byte} {f : Byte → Byte → Byte} {src : Source} {s : State} (h : src.readable s = true) :
    logic op f src s = .ok () { src.after s with
      a := f s.a (src.value s)
      p := { s.p with n := (f s.a (src.value s)).getLsbD 7, z := f s.a (src.value s) == 0 }
      cyclesRemaining := s.cyclesRemaining + cost s.launch op (src.crossed s) 0 } := by
  simp [logic, readSource_readable h, State.setNZ, Flags.setNZ]

theorem bitTest_eq {op : Byte} {src : Source} {s : State} (h : src.readable s = true) :
    bitTest op src s = .ok () { src.after s with
      p := { s.p with n := (src.value s).getLsbD 7, v := (src.value s).getLsbD 6, z := (s.a &&& src.value s) == 0 }
      cyclesRemaining := s.cyclesRemaining + cost s.launch op (src.crossed s) 0 } := by
  simp [bitTest, readSource_readable h, Flags.afterBit]

theorem addWithCarry_eq {op : Byte} {f : Byte → Byte} {src : Source} {s : State} (h : src.readable s = true) :
    addWithCarry op f src s = .ok () { src.after s with
      a := adcResult s.a (f (src.value s)) s.p.c
      p := { s.p with
        n := (adcResult s.a (f (src.value s)) s.p.c).getLsbD 7
        v := adcOverflow s.a (f (src.value s)) s.p.c
        z := adcResult s.a (f (src.value s)) s.p.c == 0
        c := adcCarry s.a (f (src.value s)) s.p.c }
      cyclesRemaining := s.cyclesRemaining + cost s.launch op (src.crossed s) 0 } := by
  simp only [addWithCarry, readSource_readable h, Res.bind_ok, retire_eq, Source.after_a, Source.after_p,
    Source.after_cyclesRemaining, Source.after_launch]
  rfl

theorem compare_eq {op : Byte} {r : Reg} {src : Source} {s : State} (h : src.readable s = true) :
    compare op r src s = .ok () { src.after s with
      p := { s.p with
        n := (s.reg r - src.value s).getLsbD 7
        z := s.reg r == src.value s
        c := decide ((src.value s).toNat ≤ (s.reg r).toNat) }
      cyclesRemaining := s.cyclesRemaining + cost s.launch op (src.crossed s) 0 } := by
  cases r <;> simp [compare, readSource_readable h, Flags.afterCompare]
  all_goals rfl

/-- A store does not look at the flags. -/
theorem State.afterWrite_setCarry (s : State) (c : Bool) (a : Word) (d : Byte) :
    (s.setCarry c).afterWrite a d = (s.afterWrite a d).setCarry c := by
  unfold State.afterWrite
  show (match s.target a with | .ram i => _ | .ext i => _ | .ppu index => _ | .oamDma => _) = _
  cases s.target a with
  | ram i => rfl
  | ext i => rfl
  | oamDma => rfl
  | ppu index => cases h : ppuRegWrite s.launch index d s.ppu <;> simp [h] <;> rfl

theorem modify_eq {op : Byte} {f : Byte → Byte} {m : Addr} {s : State} (hr : s.readable (effective s m).ea = true)
    (hw : s.writable (effective s m).ea = true) :
    modify op f m s = .ok () { (s.afterRead (effective s m).ea).afterWrite (effective s m).ea
        (f (s.readByte (effective s m).ea)) with
      p := { s.p with
        n := (f (s.readByte (effective s m).ea)).getLsbD 7
        z := f (s.readByte (effective s m).ea) == 0 }
      cyclesRemaining := s.cyclesRemaining + cost s.launch op (effective s m).crossed 0 } := by
  simp only [modify, resolve_eq, Res.bind_ok, memRead_readable hr]
  rw [memWrite_writable _ ((State.writable_afterRead s _ _).trans hw)]
  simp [State.setNZ, Flags.setNZ]

theorem modify_raises {op : Byte} {f : Byte → Byte} {m : Addr} {s : State} (h : s.readable (effective s m).ea = false) :
    modify op f m s = .raised (.invalidRegisterAccess .read (canonicalAddress s (effective s m).ea)) s := by
  simp only [modify, resolve_eq, Res.bind_ok, memRead_unreadable h, Res.bind_raised]

theorem modifyReg_eq (op : Byte) (f : Byte → Byte) (r : Reg) (s : State) :
    modifyReg op f r s = .ok () { s.setReg r (f (s.reg r)) with
      p := { s.p with n := (f (s.reg r)).getLsbD 7, z := f (s.reg r) == 0 }
      cyclesRemaining := s.cyclesRemaining + cost s.launch op false 0 } := by
  cases r <;> rfl

theorem shift_acc_eq (op : Byte) (f : Byte → Bool → Shifted) (s : State) :
    shift op f .acc s = .ok () { s with
      a := (f s.a s.p.c).result
      p := { s.p with
        n := (f s.a s.p.c).result.getLsbD 7
        z := (f s.a s.p.c).result == 0
        c := (f s.a s.p.c).carry }
      cyclesRemaining := s.cyclesRemaining + cost s.launch op false 0 } := rfl

theorem shift_mem_eq {op : Byte} {f : Byte → Bool → Shifted} {m : Addr} {s : State}
    (hr : s.readable (effective s m).ea = true) (hw : s.writable (effective s m).ea = true) :
    shift op f (.mem m) s = .ok () { (s.afterRead (effective s m).ea).afterWrite (effective s m).ea
        (f (s.readByte (effective s m).ea) s.p.c).result with
      p := { s.p with
        n := (f (s.readByte (effective s m).ea) s.p.c).result.getLsbD 7
        z := (f (s.readByte (effective s m).ea) s.p.c).result == 0
        c := (f (s.readByte (effective s m).ea) s.p.c).carry }
      cyclesRemaining := s.cyclesRemaining + cost s.launch op (effective s m).crossed 0 } := by
  simp only [shift, resolve_eq, Res.bind_ok, memRead_readable hr, State.afterRead_p]
  rw [memWrite_writable _ (show ((s.afterRead (effective s m).ea).setCarry _).writable _ = true from
    (State.writable_congr (by simp [State.target])).trans hw), State.afterWrite_setCarry]
  simp [State.setNZ, Flags.setNZ, State.setCarry]

theorem shift_mem_raises {op : Byte} {f : Byte → Bool → Shifted} {m : Addr} {s : State}
    (h : s.readable (effective s m).ea = false) :
    shift op f (.mem m) s = .raised (.invalidRegisterAccess .read (canonicalAddress s (effective s m).ea)) s := by
  simp only [shift, resolve_eq, Res.bind_ok, memRead_unreadable h, Res.bind_raised]

theorem branch_eq (op : Byte) (taken : Bool) (d : Byte) (s : State) :
    branch op taken d s = .ok () { s with
      pc := if taken then branchTarget d s else s.pc
      cyclesRemaining := s.cyclesRemaining + cost s.launch op false (if taken then branchExtra s (branchTarget d s) else 0) } := by
  cases taken <;> rfl

end Sys2Proof.Machine
end

