-- ==== Sys2Proof/Laws/Decode.lean ====
section
/-!
SUPPORT. The laws of the byte order and of the opcode matrix: what an entry of the matrix says of the instruction it makes, and
what fetching an instruction gives, from plain storage and from any bytes that can be read.
-/
namespace Sys2Proof

@[simp] theorem leWord_loByte_hiByte (w : Word) : leWord (loByte w) (hiByte w) = w := by
  apply BitVec.eq_of_toNat_eq
  have := w.isLt
  rw [Machine.toNat_leWord]
  simp [loByte, hiByte, Nat.shiftRight_eq_div_pow]
  omega

@[simp] theorem loByte_leWord (lo hi : Byte) : loByte (leWord lo hi) = lo := by
  apply BitVec.eq_of_toNat_eq
  have := lo.isLt
  simp only [loByte, BitVec.extractLsb'_toNat, Machine.toNat_leWord, Nat.shiftRight_zero]
  omega

@[simp] theorem hiByte_leWord (lo hi : Byte) : hiByte (leWord lo hi) = hi := by
  apply BitVec.eq_of_toNat_eq
  have := lo.isLt
  have := hi.isLt
  simp only [hiByte, BitVec.extractLsb'_toNat, Machine.toNat_leWord, Nat.shiftRight_eq_div_pow]
  omega

/-- What an entry of the matrix under an opcode byte says of the instructions it makes: their opcode byte, operand bytes and
length. -/
def Form.sound (op : Byte) : Form → Prop
  | .f1 i => i.opcode = op ∧ i.operandBytes = [] ∧ i.length = 1
  | .f2imm mk | .f2 mk => ∀ b, (mk b).opcode = op ∧ (mk b).operandBytes = [b] ∧ (mk b).length = 2
  | .f3 mk => ∀ w, (mk w).opcode = op ∧ (mk w).operandBytes = [loByte w, hiByte w] ∧ (mk w).length = 3

theorem formOf_sound_of_lt : ∀ n : Nat, n < 256 → ∀ f, formOf (BitVec.ofNat 8 n) = some f → f.sound (BitVec.ofNat 8 n) := by
  intro n hn
  interval_cases n <;> intro f hf <;> cases hf <;> first
    | exact ⟨rfl, rfl, rfl⟩
    | exact fun b => ⟨rfl, rfl, rfl⟩

/-- Every entry of the matrix is sound (R110, R111, R113). -/
theorem formOf_sound {op : Byte} {f : Form} (h : formOf op = some f) : f.sound op := by
  have := formOf_sound_of_lt op.toNat op.isLt f (by simpa using h)
  simpa using this

/-- The listed bytes are the ones without an entry (R114). -/
theorem formOf_isNone : ∀ op : Byte, (formOf op).isNone = Machine.undocumentedOpcodes.contains op := by decide +kernel

/-- Every term of `Instr` is well formed (R115). -/
theorem wellFormed_all (i : Instr) : i.wellFormed = true := by cases i <;> rfl

/-- The entries that read an immediate are those of the immediate mode (R135). -/
def Form.immediate : Form → Prop
  | .f1 i => i.mode ≠ .imm
  | .f2imm mk => ∀ b, (mk b).mode = .imm
  | .f2 mk => ∀ b, (mk b).mode ≠ .imm
  | .f3 mk => ∀ w, (mk w).mode ≠ .imm

theorem formOf_immediate_of_lt : ∀ n : Nat, n < 256 → ∀ f, formOf (BitVec.ofNat 8 n) = some f → Form.immediate f := by
  intro n hn
  interval_cases n <;> intro f hf <;> cases hf <;> first
    | exact fun _ => rfl
    | exact fun h => Mode.noConfusion h
    | exact fun _ h => Mode.noConfusion h

/-- The matrix says so of every entry (R111, R113). -/
theorem formOf_immediate {op : Byte} {f : Form} (h : formOf op = some f) : Form.immediate f :=
  formOf_immediate_of_lt op.toNat op.isLt f (by simpa using h)

namespace Machine

/-- A read does not depend on PC. -/
theorem State.afterRead_setPc (s : State) (w a : Word) :
    State.afterRead { s with pc := w } a = { s.afterRead a with pc := w } := by
  unfold State.afterRead
  show (match s.target a with | .ppu i => _ | .ram _ | .ext _ | .oamDma => _) = _
  cases s.target a with
  | ppu i =>
    dsimp only
    repeat' split
    all_goals rfl
  | ram i => rfl
  | ext i => rfl
  | oamDma => rfl

/-- Fetching a byte that can be read (R105, R73). -/
theorem fetchByte_readable {s : State} (h : s.readable s.pc = true) :
    fetchByte s = .ok (s.readByte s.pc) s.afterByte := by
  unfold fetchByte
  rw [memRead_readable h, Res.bind_ok, State.afterRead_pc]
  rfl

/-- Fetching an immediate that can be read leaves what fetching any byte leaves. -/
theorem fetchImmediate_readable {s : State} (h : s.readable s.pc = true) :
    fetchImmediate s = .ok (s.readByte s.pc) s.afterByte := by
  unfold fetchImmediate
  rw [memRead_readable (show State.readable { s with pc := s.pc + 1 } s.pc = true from h), State.afterRead_setPc]
  rfl

/-- Fetching an instruction whose bytes can be read, wherever they lie (R105, R130, R73). -/
theorem fetch_readable {s : State} {i : Instr} (h : s.fetchable i.length = true)
    (hd : decode (s.fetchedBytes i.length) = .ok (i, [])) : fetch s = .ok i (s.afterFetch i.length) := by
  have hl : i.length = 1 ∨ i.length = 2 ∨ i.length = 3 := by simp only [Instr.length]; cases i.mode <;> decide
  unfold fetch
  rcases hl with e | e | e <;> rw [e] at h hd ⊢ <;>
    simp only [State.fetchable, State.fetchedBytes, State.afterFetch, Bool.and_eq_true, decode] at h hd ⊢ <;>
    rw [fetchByte_readable h.1, Res.bind_ok] <;>
    rcases hf : formOf (s.readByte s.pc) with _ | ⟨j⟩ | ⟨mk⟩ | ⟨mk⟩ | ⟨mk⟩ <;>
    simp only [hf, Except.ok.injEq, Prod.mk.injEq, reduceCtorEq, and_true, and_false, List.cons_ne_nil] at hd ⊢
  · rw [hd]
  · rw [fetchImmediate_readable h.2.1, Res.bind_ok, hd]
  · rw [fetchByte_readable h.2.1, Res.bind_ok, hd]
  · rw [fetchByte_readable h.2.1, Res.bind_ok, fetchByte_readable h.2.2.1, Res.bind_ok, hd]

/-- Fetching an instruction from plain storage: PC stands past its bytes, nothing else changes (R130). -/
theorem fetch_plain {s : State} {i : Instr} {rest : List Byte}
    (hp : ∀ k, k < i.length → s.plain (s.pc + BitVec.ofNat 16 k) = true)
    (hd : decode [s.byteAt s.pc, s.byteAt (s.pc + 1), s.byteAt (s.pc + 2)] = .ok (i, rest)) :
    fetch s = .ok i { s with pc := s.pc + BitVec.ofNat 16 i.length } := by
  have hl : 0 < i.length := by simp only [Instr.length]; cases i.mode <;> decide
  have h0 : s.plain s.pc = true := by simpa using hp 0 hl
  have hpl (w a : Word) : State.plain { s with pc := w } a = s.plain a := rfl
  have hby (w a : Word) : State.byteAt { s with pc := w } a = s.byteAt a := rfl
  have e2 : s.pc + 1 + 1 = s.pc + 2 := by rw [BitVec.add_assoc]; rfl
  have e3 : s.pc + 2 + 1 = s.pc + 3 := by rw [BitVec.add_assoc]; rfl
  simp only [decode] at hd
  simp only [fetch, fetchByte, memRead_plain h0, Res.bind_ok]
  cases hf : formOf (s.byteAt s.pc) with
  | none => simp [hf] at hd
  | some f =>
    have hs := formOf_sound hf
    cases f with
    | f1 j =>
      simp only [hf, Except.ok.injEq, Prod.mk.injEq] at hd
      obtain ⟨rfl, -⟩ := hd
      simp [hs.2.2]
    | f2imm mk =>
      simp only [hf, Except.ok.injEq, Prod.mk.injEq] at hd
      obtain ⟨rfl, -⟩ := hd
      have hl2 := (hs (s.byteAt (s.pc + 1))).2.2
      have h1 := hp 1 (by omega)
      simp only [fetchImmediate]
      rw [memRead_plain (by rw [hpl]; exact h1)]
      simp only [Res.bind_ok, hl2, e2, hby]
      rfl
    | f2 mk =>
      simp only [hf, Except.ok.injEq, Prod.mk.injEq] at hd
      obtain ⟨rfl, -⟩ := hd
      have hl2 := (hs (s.byteAt (s.pc + 1))).2.2
      have h1 := hp 1 (by omega)
      simp only
      rw [memRead_plain (by rw [hpl]; exact h1)]
      simp only [Res.bind_ok, hl2, e2, hby]
      rfl
    | f3 mk =>
      simp only [hf, Except.ok.injEq, Prod.mk.injEq] at hd
      obtain ⟨rfl, -⟩ := hd
      have hl3 := (hs (leWord (s.byteAt (s.pc + 1)) (s.byteAt (s.pc + 2)))).2.2
      have h1 := hp 1 (by omega)
      have h2 := hp 2 (by omega)
      simp only
      rw [memRead_plain (by rw [hpl]; exact h1)]
      simp only [Res.bind_ok, e2]
      rw [memRead_plain (by rw [hpl]; exact h2)]
      simp only [Res.bind_ok, hl3, e3, hby]
      rfl

end Machine

end Sys2Proof
end

