-- ==== Sys2Proof/Laws/Exec.lean ====
section
/-!
SUPPORT. Every meaning is one of the shared bodies over the instruction's shape, said once (`runs_exec`), so that a statement
about all instructions is proved by cases over the bodies, not over the 151 rows.
-/
namespace Sys2Proof.Machine

/-- The bodies an instruction's meaning can be. -/
inductive Runs (i : Instr) : (State → Res Unit) → Prop
  | load (r : Reg) (src : Source) (h : loadForm i = some (r, src)) : Runs i (load i.opcode r src)
  | store (r : Reg) (m : Addr) (h : storeForm i = some (r, m)) : Runs i (store i.opcode r m)
  | transfer (r q : Reg) (h : transferForm i = some (r, q)) : Runs i fun s => transfer i.opcode r (s.reg q) s
  | tsx (h : i = .tsx) : Runs i fun s => transfer i.opcode .x s.sp s
  | txs (h : i = .txs) : Runs i fun s => retire i.opcode false 0 { s with sp := s.x }
  | pha (h : i = .pha) : Runs i fun s => (push s.a s).bind fun _ s => retire i.opcode false 0 s
  | php (h : i = .php) : Runs i fun s => (push s.p.pushedBySoftware s).bind fun _ s => retire i.opcode false 0 s
  | pla (h : i = .pla) : Runs i fun s => (pull s).bind fun d s => retire i.opcode false 0 ((s.setReg .a d).setNZ d)
  | plp (h : i = .plp) : Runs i fun s => (pull s).bind fun d s => retire i.opcode false 0 { s with p := Flags.pulled d }
  | logic (op : LogicOp) (src : Source) (h : logicForm i = some (op, src)) : Runs i (logic i.opcode op.apply src)
  | bit (src : Source) (h : bitForm i = some src) : Runs i (bitTest i.opcode src)
  | adc (src : Source) (h : adcForm i = some src) : Runs i (addWithCarry i.opcode id src)
  | sbc (src : Source) (h : sbcForm i = some src) : Runs i (addWithCarry i.opcode sbcOperand src)
  | compare (r : Reg) (src : Source) (h : compareForm i = some (r, src)) : Runs i (compare i.opcode r src)
  | inc (m : Addr) (h : incForm i = some m) : Runs i (modify i.opcode (· + 1) m)
  | dec (m : Addr) (h : decForm i = some m) : Runs i (modify i.opcode (· - 1) m)
  | stepReg (r : Reg) (up : Bool) (h : stepRegForm i = some (r, up)) :
      Runs i (modifyReg i.opcode (fun d => if up then d + 1 else d - 1) r)
  | shiftAcc (op : ShiftOp) (h : shiftAccForm i = some op) :
      Runs i (shift i.opcode (fun m c => ⟨op.result m c, op.carry m⟩) .acc)
  | shiftMem (op : ShiftOp) (m : Addr) (h : shiftMemForm i = some (op, m)) :
      Runs i (shift i.opcode (fun m c => ⟨op.result m c, op.carry m⟩) (.mem m))
  | jmpAbs (a : Word) (h : i = .jmpAbs a) : Runs i fun s => retire i.opcode false 0 { s with pc := a }
  | jmpInd (a : Word) (h : i = .jmpInd a) :
      Runs i fun s => (resolveIndirect a s).bind fun target s => retire i.opcode false 0 { s with pc := target }
  | jsr (a : Word) (h : i = .jsr a) :
      Runs i fun s => (push16 (s.pc - 1) s).bind fun _ s => retire i.opcode false 0 { s with pc := a }
  | rts (h : i = .rts) : Runs i fun s => (pull16 s).bind fun w s => retire i.opcode false 0 { s with pc := w + 1 }
  | brk (h : i = .brk) : Runs i fun s =>
      (enterTrap (s.pc + 1) s.p.pushedBySoftware brkVector { s with pc := s.pc + 1 }).bind
        fun _ s => retire i.opcode false 0 s
  | rti (h : i = .rti) : Runs i fun s => (returnFromTrap s).bind fun _ s => retire i.opcode false 0 s
  | branch (d : Byte) (taken : Flags → Bool) (h : ∀ p, branchForm p i = some (taken p, d)) :
      Runs i fun s => branch i.opcode (taken s.p) d s
  | flag (f : Flags → Flags) (h : ∀ p, flagForm p i = some (f p)) : Runs i (setFlags i.opcode f)
  | nop (h : i = .nop) : Runs i fun s => retire i.opcode false 0 s

theorem shiftAsl_fun : shiftAsl = fun m c => ⟨ShiftOp.result .asl m c, ShiftOp.carry .asl m⟩ :=
  funext fun m => funext fun c => shiftAsl_eq m c

theorem shiftLsr_fun : shiftLsr = fun m c => ⟨ShiftOp.result .lsr m c, ShiftOp.carry .lsr m⟩ :=
  funext fun m => funext fun c => shiftLsr_eq m c

theorem shiftRol_fun : shiftRol = fun m c => ⟨ShiftOp.result .rol m c, ShiftOp.carry .rol m⟩ :=
  funext fun m => funext fun c => shiftRol_eq m c

theorem shiftRor_fun : shiftRor = fun m c => ⟨ShiftOp.result .ror m c, ShiftOp.carry .ror m⟩ :=
  funext fun m => funext fun c => shiftRor_eq m c

theorem shift_congr {op : Byte} {f g : Byte → Bool → Shifted} (h : f = g) {pl : Place} (s : State) :
    (shift op f pl s).outcome = (shift op g pl s).outcome := by rw [h]

/-- The meaning of an instruction is one of the shared bodies over its shape. -/
theorem runs_exec (i : Instr) : ∃ b, Runs i b ∧ ∀ s, exec i s = (b s).outcome := by
  cases i with
  | ldaImm _ => exact ⟨_, .load _ _ rfl, fun _ => rfl⟩
  | ldaZp _ => exact ⟨_, .load _ _ rfl, fun _ => rfl⟩
  | ldaZpx _ => exact ⟨_, .load _ _ rfl, fun _ => rfl⟩
  | ldaAbs _ => exact ⟨_, .load _ _ rfl, fun _ => rfl⟩
  | ldaAbsx _ => exact ⟨_, .load _ _ rfl, fun _ => rfl⟩
  | ldaAbsy _ => exact ⟨_, .load _ _ rfl, fun _ => rfl⟩
  | ldaIndx _ => exact ⟨_, .load _ _ rfl, fun _ => rfl⟩
  | ldaIndy _ => exact ⟨_, .load _ _ rfl, fun _ => rfl⟩
  | ldxImm _ => exact ⟨_, .load _ _ rfl, fun _ => rfl⟩
  | ldxZp _ => exact ⟨_, .load _ _ rfl, fun _ => rfl⟩
  | ldxZpy _ => exact ⟨_, .load _ _ rfl, fun _ => rfl⟩
  | ldxAbs _ => exact ⟨_, .load _ _ rfl, fun _ => rfl⟩
  | ldxAbsy _ => exact ⟨_, .load _ _ rfl, fun _ => rfl⟩
  | ldyImm _ => exact ⟨_, .load _ _ rfl, fun _ => rfl⟩
  | ldyZp _ => exact ⟨_, .load _ _ rfl, fun _ => rfl⟩
  | ldyZpx _ => exact ⟨_, .load _ _ rfl, fun _ => rfl⟩
  | ldyAbs _ => exact ⟨_, .load _ _ rfl, fun _ => rfl⟩
  | ldyAbsx _ => exact ⟨_, .load _ _ rfl, fun _ => rfl⟩
  | staZp _ => exact ⟨_, .store _ _ rfl, fun _ => rfl⟩
  | staZpx _ => exact ⟨_, .store _ _ rfl, fun _ => rfl⟩
  | staAbs _ => exact ⟨_, .store _ _ rfl, fun _ => rfl⟩
  | staAbsx _ => exact ⟨_, .store _ _ rfl, fun _ => rfl⟩
  | staAbsy _ => exact ⟨_, .store _ _ rfl, fun _ => rfl⟩
  | staIndx _ => exact ⟨_, .store _ _ rfl, fun _ => rfl⟩
  | staIndy _ => exact ⟨_, .store _ _ rfl, fun _ => rfl⟩
  | stxZp _ => exact ⟨_, .store _ _ rfl, fun _ => rfl⟩
  | stxZpy _ => exact ⟨_, .store _ _ rfl, fun _ => rfl⟩
  | stxAbs _ => exact ⟨_, .store _ _ rfl, fun _ => rfl⟩
  | styZp _ => exact ⟨_, .store _ _ rfl, fun _ => rfl⟩
  | styZpx _ => exact ⟨_, .store _ _ rfl, fun _ => rfl⟩
  | styAbs _ => exact ⟨_, .store _ _ rfl, fun _ => rfl⟩
  | tax => exact ⟨_, .transfer _ _ rfl, fun _ => rfl⟩
  | tay => exact ⟨_, .transfer _ _ rfl, fun _ => rfl⟩
  | txa => exact ⟨_, .transfer _ _ rfl, fun _ => rfl⟩
  | tya => exact ⟨_, .transfer _ _ rfl, fun _ => rfl⟩
  | tsx => exact ⟨_, .tsx rfl, fun _ => rfl⟩
  | txs => exact ⟨_, .txs rfl, fun _ => rfl⟩
  | pha => exact ⟨_, .pha rfl, fun _ => rfl⟩
  | php => exact ⟨_, .php rfl, fun _ => rfl⟩
  | pla => exact ⟨_, .pla rfl, fun _ => rfl⟩
  | plp => exact ⟨_, .plp rfl, fun _ => rfl⟩
  | andImm _ => exact ⟨_, .logic _ _ rfl, fun _ => rfl⟩
  | andZp _ => exact ⟨_, .logic _ _ rfl, fun _ => rfl⟩
  | andZpx _ => exact ⟨_, .logic _ _ rfl, fun _ => rfl⟩
  | andAbs _ => exact ⟨_, .logic _ _ rfl, fun _ => rfl⟩
  | andAbsx _ => exact ⟨_, .logic _ _ rfl, fun _ => rfl⟩
  | andAbsy _ => exact ⟨_, .logic _ _ rfl, fun _ => rfl⟩
  | andIndx _ => exact ⟨_, .logic _ _ rfl, fun _ => rfl⟩
  | andIndy _ => exact ⟨_, .logic _ _ rfl, fun _ => rfl⟩
  | oraImm _ => exact ⟨_, .logic _ _ rfl, fun _ => rfl⟩
  | oraZp _ => exact ⟨_, .logic _ _ rfl, fun _ => rfl⟩
  | oraZpx _ => exact ⟨_, .logic _ _ rfl, fun _ => rfl⟩
  | oraAbs _ => exact ⟨_, .logic _ _ rfl, fun _ => rfl⟩
  | oraAbsx _ => exact ⟨_, .logic _ _ rfl, fun _ => rfl⟩
  | oraAbsy _ => exact ⟨_, .logic _ _ rfl, fun _ => rfl⟩
  | oraIndx _ => exact ⟨_, .logic _ _ rfl, fun _ => rfl⟩
  | oraIndy _ => exact ⟨_, .logic _ _ rfl, fun _ => rfl⟩
  | eorImm _ => exact ⟨_, .logic _ _ rfl, fun _ => rfl⟩
  | eorZp _ => exact ⟨_, .logic _ _ rfl, fun _ => rfl⟩
  | eorZpx _ => exact ⟨_, .logic _ _ rfl, fun _ => rfl⟩
  | eorAbs _ => exact ⟨_, .logic _ _ rfl, fun _ => rfl⟩
  | eorAbsx _ => exact ⟨_, .logic _ _ rfl, fun _ => rfl⟩
  | eorAbsy _ => exact ⟨_, .logic _ _ rfl, fun _ => rfl⟩
  | eorIndx _ => exact ⟨_, .logic _ _ rfl, fun _ => rfl⟩
  | eorIndy _ => exact ⟨_, .logic _ _ rfl, fun _ => rfl⟩
  | bitZp _ => exact ⟨_, .bit _ rfl, fun _ => rfl⟩
  | bitAbs _ => exact ⟨_, .bit _ rfl, fun _ => rfl⟩
  | adcImm _ => exact ⟨_, .adc _ rfl, fun _ => rfl⟩
  | adcZp _ => exact ⟨_, .adc _ rfl, fun _ => rfl⟩
  | adcZpx _ => exact ⟨_, .adc _ rfl, fun _ => rfl⟩
  | adcAbs _ => exact ⟨_, .adc _ rfl, fun _ => rfl⟩
  | adcAbsx _ => exact ⟨_, .adc _ rfl, fun _ => rfl⟩
  | adcAbsy _ => exact ⟨_, .adc _ rfl, fun _ => rfl⟩
  | adcIndx _ => exact ⟨_, .adc _ rfl, fun _ => rfl⟩
  | adcIndy _ => exact ⟨_, .adc _ rfl, fun _ => rfl⟩
  | sbcImm _ => exact ⟨_, .sbc _ rfl, fun _ => rfl⟩
  | sbcZp _ => exact ⟨_, .sbc _ rfl, fun _ => rfl⟩
  | sbcZpx _ => exact ⟨_, .sbc _ rfl, fun _ => rfl⟩
  | sbcAbs _ => exact ⟨_, .sbc _ rfl, fun _ => rfl⟩
  | sbcAbsx _ => exact ⟨_, .sbc _ rfl, fun _ => rfl⟩
  | sbcAbsy _ => exact ⟨_, .sbc _ rfl, fun _ => rfl⟩
  | sbcIndx _ => exact ⟨_, .sbc _ rfl, fun _ => rfl⟩
  | sbcIndy _ => exact ⟨_, .sbc _ rfl, fun _ => rfl⟩
  | cmpImm _ => exact ⟨_, .compare _ _ rfl, fun _ => rfl⟩
  | cmpZp _ => exact ⟨_, .compare _ _ rfl, fun _ => rfl⟩
  | cmpZpx _ => exact ⟨_, .compare _ _ rfl, fun _ => rfl⟩
  | cmpAbs _ => exact ⟨_, .compare _ _ rfl, fun _ => rfl⟩
  | cmpAbsx _ => exact ⟨_, .compare _ _ rfl, fun _ => rfl⟩
  | cmpAbsy _ => exact ⟨_, .compare _ _ rfl, fun _ => rfl⟩
  | cmpIndx _ => exact ⟨_, .compare _ _ rfl, fun _ => rfl⟩
  | cmpIndy _ => exact ⟨_, .compare _ _ rfl, fun _ => rfl⟩
  | cpxImm _ => exact ⟨_, .compare _ _ rfl, fun _ => rfl⟩
  | cpxZp _ => exact ⟨_, .compare _ _ rfl, fun _ => rfl⟩
  | cpxAbs _ => exact ⟨_, .compare _ _ rfl, fun _ => rfl⟩
  | cpyImm _ => exact ⟨_, .compare _ _ rfl, fun _ => rfl⟩
  | cpyZp _ => exact ⟨_, .compare _ _ rfl, fun _ => rfl⟩
  | cpyAbs _ => exact ⟨_, .compare _ _ rfl, fun _ => rfl⟩
  | incZp _ => exact ⟨_, .inc _ rfl, fun _ => rfl⟩
  | incZpx _ => exact ⟨_, .inc _ rfl, fun _ => rfl⟩
  | incAbs _ => exact ⟨_, .inc _ rfl, fun _ => rfl⟩
  | incAbsx _ => exact ⟨_, .inc _ rfl, fun _ => rfl⟩
  | inx => exact ⟨_, .stepReg _ true rfl, fun _ => rfl⟩
  | iny => exact ⟨_, .stepReg _ true rfl, fun _ => rfl⟩
  | decZp _ => exact ⟨_, .dec _ rfl, fun _ => rfl⟩
  | decZpx _ => exact ⟨_, .dec _ rfl, fun _ => rfl⟩
  | decAbs _ => exact ⟨_, .dec _ rfl, fun _ => rfl⟩
  | decAbsx _ => exact ⟨_, .dec _ rfl, fun _ => rfl⟩
  | dex => exact ⟨_, .stepReg _ false rfl, fun _ => rfl⟩
  | dey => exact ⟨_, .stepReg _ false rfl, fun _ => rfl⟩
  | aslAcc => exact ⟨_, .shiftAcc .asl rfl, shift_congr (op := 0x0A) (pl := .acc) shiftAsl_fun⟩
  | aslZp _ => exact ⟨_, .shiftMem .asl _ rfl, shift_congr shiftAsl_fun⟩
  | aslZpx _ => exact ⟨_, .shiftMem .asl _ rfl, shift_congr shiftAsl_fun⟩
  | aslAbs _ => exact ⟨_, .shiftMem .asl _ rfl, shift_congr shiftAsl_fun⟩
  | aslAbsx _ => exact ⟨_, .shiftMem .asl _ rfl, shift_congr shiftAsl_fun⟩
  | lsrAcc => exact ⟨_, .shiftAcc .lsr rfl, shift_congr (op := 0x4A) (pl := .acc) shiftLsr_fun⟩
  | lsrZp _ => exact ⟨_, .shiftMem .lsr _ rfl, shift_congr shiftLsr_fun⟩
  | lsrZpx _ => exact ⟨_, .shiftMem .lsr _ rfl, shift_congr shiftLsr_fun⟩
  | lsrAbs _ => exact ⟨_, .shiftMem .lsr _ rfl, shift_congr shiftLsr_fun⟩
  | lsrAbsx _ => exact ⟨_, .shiftMem .lsr _ rfl, shift_congr shiftLsr_fun⟩
  | rolAcc => exact ⟨_, .shiftAcc .rol rfl, shift_congr (op := 0x2A) (pl := .acc) shiftRol_fun⟩
  | rolZp _ => exact ⟨_, .shiftMem .rol _ rfl, shift_congr shiftRol_fun⟩
  | rolZpx _ => exact ⟨_, .shiftMem .rol _ rfl, shift_congr shiftRol_fun⟩
  | rolAbs _ => exact ⟨_, .shiftMem .rol _ rfl, shift_congr shiftRol_fun⟩
  | rolAbsx _ => exact ⟨_, .shiftMem .rol _ rfl, shift_congr shiftRol_fun⟩
  | rorAcc => exact ⟨_, .shiftAcc .ror rfl, shift_congr (op := 0x6A) (pl := .acc) shiftRor_fun⟩
  | rorZp _ => exact ⟨_, .shiftMem .ror _ rfl, shift_congr shiftRor_fun⟩
  | rorZpx _ => exact ⟨_, .shiftMem .ror _ rfl, shift_congr shiftRor_fun⟩
  | rorAbs _ => exact ⟨_, .shiftMem .ror _ rfl, shift_congr shiftRor_fun⟩
  | rorAbsx _ => exact ⟨_, .shiftMem .ror _ rfl, shift_congr shiftRor_fun⟩
  | jmpAbs _ => exact ⟨_, .jmpAbs _ rfl, fun _ => rfl⟩
  | jmpInd _ => exact ⟨_, .jmpInd _ rfl, fun _ => rfl⟩
  | jsr _ => exact ⟨_, .jsr _ rfl, fun _ => rfl⟩
  | rts => exact ⟨_, .rts rfl, fun _ => rfl⟩
  | brk => exact ⟨_, .brk rfl, fun _ => rfl⟩
  | rti => exact ⟨_, .rti rfl, fun _ => rfl⟩
  | bcc _ => exact ⟨_, .branch _ (fun p => !p.c) fun _ => rfl, fun _ => rfl⟩
  | bcs _ => exact ⟨_, .branch _ (fun p => p.c) fun _ => rfl, fun _ => rfl⟩
  | beq _ => exact ⟨_, .branch _ (fun p => p.z) fun _ => rfl, fun _ => rfl⟩
  | bne _ => exact ⟨_, .branch _ (fun p => !p.z) fun _ => rfl, fun _ => rfl⟩
  | bmi _ => exact ⟨_, .branch _ (fun p => p.n) fun _ => rfl, fun _ => rfl⟩
  | bpl _ => exact ⟨_, .branch _ (fun p => !p.n) fun _ => rfl, fun _ => rfl⟩
  | bvc _ => exact ⟨_, .branch _ (fun p => !p.v) fun _ => rfl, fun _ => rfl⟩
  | bvs _ => exact ⟨_, .branch _ (fun p => p.v) fun _ => rfl, fun _ => rfl⟩
  | clc => exact ⟨_, .flag (fun p => { p with c := false }) fun _ => rfl, fun _ => rfl⟩
  | sec => exact ⟨_, .flag (fun p => { p with c := true }) fun _ => rfl, fun _ => rfl⟩
  | cli => exact ⟨_, .flag (fun p => { p with i := false }) fun _ => rfl, fun _ => rfl⟩
  | sei => exact ⟨_, .flag (fun p => { p with i := true }) fun _ => rfl, fun _ => rfl⟩
  | clv => exact ⟨_, .flag (fun p => { p with v := false }) fun _ => rfl, fun _ => rfl⟩
  | cld => exact ⟨_, .flag (fun p => { p with d := false }) fun _ => rfl, fun _ => rfl⟩
  | sed => exact ⟨_, .flag (fun p => { p with d := true }) fun _ => rfl, fun _ => rfl⟩
  | nop => exact ⟨_, .nop rfl, fun _ => rfl⟩

end Sys2Proof.Machine
end

