-- ==== Sys2Proof/Laws/Invariant.lean ====
section
/-!
SUPPORT. Every memory operation keeps the canonical form of every memory: the writes of the PPU's storage, of the register
window, of the CPU bus, of a DMA and of the frame buffer; and the memories of the reset state have it.
-/
namespace Sys2Proof.Machine

/-! ## What the bus keeps: all of `State.wf` -/

theorem Ppu.wf_iff (p : Ppu) : p.wf = true ↔ p.scanline ≤ 261 ∧ p.cycle ≤ 340 ∧ Mem.wf 256 p.oam = true ∧
    Mem.wf 32 p.secondaryOam = true ∧ Mem.wf 2048 p.nt = true ∧ Mem.wf 32 p.pal = true ∧ Mem.wf 8192 p.chr = true ∧
    Mem.wf 61440 p.fb = true := by
  simp [Ppu.wf, Bool.and_eq_true, decide_eq_true_eq, and_assoc]

theorem State.wf_iff (s : State) : s.wf = true ↔ s.p.u = true ∧ s.p.b = false ∧ storableFault s.fault = true ∧
    Mem.wf 2048 s.ram = true ∧ Mem.wf 65536 s.ext = true ∧ s.ppu.wf = true := by
  simp [State.wf, Bool.and_eq_true, and_assoc]

/-- The memories of the machine right after reset are in canonical form. -/
theorem reset_memories_wf : Mem.wf 2048 State.reset.ram = true ∧ Mem.wf 65536 State.reset.ext = true ∧
    State.reset.ppu.wf = true := ⟨rfl, rfl, rfl⟩

theorem ntIndex_lt (m : Mirroring) (a : Nat) : ntIndex m a < 2048 := by
  cases m <;> simp only [ntIndex] <;> omega

/-- VramWrite (R85) keeps the canonical form. -/
theorem vramWrite_wf {m : Mirroring} {p : Ppu} {a : BitVec 14} {d : Byte} (h : p.wf = true) :
    (vramWrite m p a d).wf = true := by
  rw [Ppu.wf_iff] at h ⊢
  obtain ⟨h1, h2, h3, h4, h5, h6, h7, h8⟩ := h
  unfold vramWrite vramCell
  split
  · exact ⟨h1, h2, h3, h4, h5, h6, Mem.wf_write _ _ _ h7 (by assumption), h8⟩
  · split
    · exact ⟨h1, h2, h3, h4, Mem.wf_write _ _ _ h5 (ntIndex_lt _ _), h6, h7, h8⟩
    · exact ⟨h1, h2, h3, h4, h5, Mem.wf_write _ _ _ h6 (by omega), h7, h8⟩

theorem Ppu.wf_advanceV {p : Ppu} (h : p.wf = true) : p.advanceV.wf = true := h

/-- A register write (R251) keeps the canonical form. -/
theorem ppuRegWrite_wf {l : Launch} {index : BitVec 3} {d : Byte} {p q : Ppu} (h : p.wf = true)
    (hq : ppuRegWrite l index d p = some q) : q.wf = true := by
  unfold ppuRegWrite at hq
  split at hq <;> cases hq
  · exact h
  · exact h
  · exact h
  · rw [Ppu.wf_iff] at h ⊢
    obtain ⟨h1, h2, h3, h4, h5, h6, h7, h8⟩ := h
    exact ⟨h1, h2, Mem.wf_write _ _ _ h3 p.oamAddr.isLt, h4, h5, h6, h7, h8⟩
  · unfold Ppu.writeScroll
    split <;> exact h
  · unfold Ppu.writeAddr
    split <;> exact h
  · exact Ppu.wf_advanceV (vramWrite_wf h)

/-- A register read (R250) keeps the canonical form. -/
theorem ppuRegRead_wf {l : Launch} {index : BitVec 3} {d : Byte} {p q : Ppu} (h : p.wf = true)
    (hq : ppuRegRead l index p = some (d, q)) : q.wf = true := by
  unfold ppuRegRead at hq
  split at hq <;> cases hq
  · exact h
  · exact h
  · unfold Ppu.afterDataRead
    split <;> exact h

/-- The state a micro-operation leaves. -/
def Res.left {α : Type} : Res α → State
  | .ok _ s => s
  | .raised _ s => s

@[simp] theorem Res.left_ok {α : Type} (v : α) (s : State) : (Res.ok v s).left = s := rfl
@[simp] theorem Res.left_raised {α : Type} (f : Fault) (s : State) : (Res.raised f s : Res α).left = s := rfl

/-- What two micro-operations in a row keep. -/
theorem Res.left_bind {α β : Type} {P : State → Prop} {r : Res α} {k : α → State → Res β} (h : P r.left)
    (hk : ∀ v s, P s → P (k v s).left) : P (r.bind k).left := by
  cases r with
  | ok v s => exact hk v s h
  | raised f s => exact h

/-- The outcome of a micro-operation: the state it leaves, with the fault recorded where one was raised. -/
theorem Res.outcome_cases {r : Res Unit} {t : State} (h : r.outcome = .next t) :
    t = r.left ∨ ∃ f s, r = .raised f s ∧ t = { r.left with fault := some f } := by
  cases r with
  | ok v s => cases h; exact .inl rfl
  | raised f s => cases h; exact .inr ⟨f, s, rfl, rfl⟩

/-- MemRead (R68) keeps the invariant, whether or not it raises. -/
theorem memRead_wf {s : State} {a : Word} (h : s.wf = true) : (memRead a s).left.wf = true := by
  unfold memRead
  split
  · exact h
  · split
    · rename_i d p hq
      rw [State.wf_iff] at h ⊢
      exact ⟨h.1, h.2.1, h.2.2.1, h.2.2.2.1, h.2.2.2.2.1, ppuRegRead_wf h.2.2.2.2.2 hq⟩
    · exact h
  · exact h
  · exact h

/-- The copies of a DMA (R264) keep the invariant. -/
theorem oamCopy_wf (page : Byte) (count : Nat) : ∀ (first : Nat) (s : State), s.wf = true →
    (oamCopy page first count s).left.wf = true := by
  induction count with
  | zero => exact fun _ _ h => h
  | succ n ih =>
    intro first s h
    refine Res.left_bind (P := fun s => s.wf = true) (memRead_wf h) fun d t ht => ih _ _ ?_
    rw [State.wf_iff] at ht ⊢
    obtain ⟨t1, t2, t3, t4, t5, t6⟩ := ht
    rw [Ppu.wf_iff] at t6
    obtain ⟨h1, h2, h3, h4, h5, h6, h7, h8⟩ := t6
    exact ⟨t1, t2, t3, t4, t5, (Ppu.wf_iff _).mpr
      ⟨h1, h2, Mem.wf_write _ _ _ h3 (BitVec.isLt _), h4, h5, h6, h7, h8⟩⟩

/-- OamDma (R264) keeps the invariant. -/
theorem oamDma_wf {s : State} {page : Byte} (h : s.wf = true) : (oamDma page s).left.wf = true :=
  Res.left_bind (P := fun s => s.wf = true) (oamCopy_wf page 256 0 s h) fun _ _ ht => ht

/-- The index of a bus target lies in its memory. -/
theorem busTarget_bounds (l a : Word) :
    (∀ i, busTarget l a = .ram i → i < 2048) ∧ (∀ i, busTarget l a = .ext i → i < 65536) := by
  unfold busTarget
  have ha := a.isLt
  constructor <;> intro i h <;> repeat' split at h
  all_goals first | (cases h; omega) | cases h

/-- MemWrite (R69) keeps the invariant, whether or not it raises. -/
theorem memWrite_wf {s : State} {a : Word} {d : Byte} (h : s.wf = true) : (memWrite a d s).left.wf = true := by
  have hb := busTarget_bounds s.launch.ramMirrorLast a
  unfold memWrite
  split
  · rename_i i ht
    rw [State.wf_iff] at h ⊢
    exact ⟨h.1, h.2.1, h.2.2.1, Mem.wf_write _ _ _ h.2.2.2.1 (hb.1 i ht), h.2.2.2.2⟩
  · split
    · rename_i p hq
      rw [State.wf_iff] at h ⊢
      exact ⟨h.1, h.2.1, h.2.2.1, h.2.2.2.1, h.2.2.2.2.1, ppuRegWrite_wf h.2.2.2.2.2 hq⟩
    · exact h
  · exact oamDma_wf h
  · rename_i i ht
    rw [State.wf_iff] at h ⊢
    exact ⟨h.1, h.2.1, h.2.2.1, h.2.2.2.1, Mem.wf_write _ _ _ h.2.2.2.2.1 (hb.2 i ht), h.2.2.2.2.2⟩

/-- A pixel stored inside the picture (R299, R301) keeps the canonical form. -/
theorem Ppu.emit_wf {p : Ppu} {c : BitVec 6} (h : p.wf = true) (hs : p.scanline ≤ 239) (hc : p.cycle ≤ 256) :
    (p.emit c).wf = true := by
  rw [Ppu.wf_iff] at h ⊢
  obtain ⟨h1, h2, h3, h4, h5, h6, h7, h8⟩ := h
  exact ⟨h1, h2, h3, h4, h5, h6, h7, Mem.wf_write _ _ _ h8 (by unfold fbIndex; omega)⟩

/-- The host's own store of an instruction keeps the invariant. -/
theorem pokeByte_wf {s : State} {a : Word} {d : Byte} (h : s.wf = true) : (pokeByte a d s).wf = true := by
  have hb := busTarget_bounds s.launch.ramMirrorLast a
  unfold pokeByte
  split
  · rename_i i ht
    rw [State.wf_iff] at h ⊢
    exact ⟨h.1, h.2.1, h.2.2.1, Mem.wf_write _ _ _ h.2.2.2.1 (hb.1 i ht), h.2.2.2.2⟩
  · rename_i i ht
    rw [State.wf_iff] at h ⊢
    exact ⟨h.1, h.2.1, h.2.2.1, h.2.2.2.1, Mem.wf_write _ _ _ h.2.2.2.2.1 (hb.2 i ht), h.2.2.2.2.2⟩
  · exact h
  · exact h

end Sys2Proof.Machine
end

