-- ==== Sys2Proof/Laws/Keeps.lean ====
section
/-!
SUPPORT. One principle for every property that all instructions keep: it is enough that bus reads, bus writes, the update of
CPU registers and the recording of a fault keep it.
-/
namespace Sys2Proof.Machine

/-- The flags an instruction may leave, as far as U and B go (R31): as they were, or U = 1 and B = 0. -/
def Flags.legalAfter (q p : Flags) : Prop := (q.u = p.u ∧ q.b = p.b) ∨ (q.u = true ∧ q.b = false)

/-- A property that the parts of every instruction keep. -/
structure Kept (P : State → Prop) : Prop where
  read : ∀ a s, P s → P (memRead a s).left
  write : ∀ a d s, P s → P (memWrite a d s).left
  cpu : ∀ s a x y sp pc p n, p.legalAfter s.p → P s →
    P { s with a := a, x := x, y := y, sp := sp, pc := pc, p := p, cyclesRemaining := n }
  fault : ∀ s f, storableFault (some f) = true → P s → P { s with fault := some f }

/-- A fault a micro-operation raises is one a step may store. -/
def Res.storable {α : Type} : Res α → Prop
  | .ok _ _ => True
  | .raised f _ => storableFault (some f) = true

theorem Res.storable_bind {α β : Type} {r : Res α} {k : α → State → Res β} (h : r.storable)
    (hk : ∀ v s, (k v s).storable) : (r.bind k).storable := by
  cases r with
  | ok v s => exact hk v s
  | raised f s => exact h

theorem memRead_storable (a : Word) (s : State) : (memRead a s).storable := by
  unfold memRead
  repeat' split
  all_goals trivial

theorem oamCopy_storable (page : Byte) (count : Nat) : ∀ first s, (oamCopy page first count s).storable := by
  induction count with
  | zero => exact fun _ _ => trivial
  | succ n ih => exact fun first s => Res.storable_bind (memRead_storable _ _) fun _ _ => ih _ _

theorem memWrite_storable (a : Word) (d : Byte) (s : State) : (memWrite a d s).storable := by
  unfold memWrite
  split
  · trivial
  · split
    · trivial
    · exact rfl
  · exact Res.storable_bind (oamCopy_storable _ _ _ _) fun _ _ => trivial
  · trivial

theorem push_storable (d : Byte) (s : State) : (push d s).storable := by rw [push_eq]; trivial

theorem push16_storable (w : Word) (s : State) : (push16 w s).storable := by rw [push16_eq]; trivial

theorem pull_storable (s : State) : (pull s).storable := by rw [pull_eq]; trivial

theorem pull16_storable (s : State) : (pull16 s).storable := by rw [pull16_eq]; trivial

theorem enterTrap_storable (w : Word) (d : Byte) (v : Word) (s : State) : (enterTrap w d v s).storable :=
  Res.storable_bind (push16_storable _ _) fun _ _ => Res.storable_bind (push_storable _ _) fun _ _ =>
    Res.storable_bind (Res.storable_bind (memRead_storable _ _) fun _ _ =>
      Res.storable_bind (memRead_storable _ _) fun _ _ => trivial) fun _ _ => trivial

theorem returnFromTrap_storable (s : State) : (returnFromTrap s).storable := by rw [returnFromTrap_eq]; trivial

theorem readSource_storable (src : Source) (s : State) : (readSource src s).storable := by
  cases src with
  | imm m => trivial
  | mem m =>
    exact Res.storable_bind (by rw [resolve_eq]; trivial) fun _ _ =>
      Res.storable_bind (memRead_storable _ _) fun _ _ => trivial

theorem resolve_storable (m : Addr) (s : State) : (resolve m s).storable := by rw [resolve_eq]; trivial

/-- Every fault an instruction raises is one a step may store (R340, R341). -/
theorem Runs.storable {i : Instr} {b : State → Res Unit} (hb : Runs i b) (s : State) : (b s).storable := by
  cases hb with
  | load _ _ _ => exact Res.storable_bind (readSource_storable _ _) fun _ _ => trivial
  | store _ _ _ =>
    exact Res.storable_bind (resolve_storable _ _) fun _ _ => Res.storable_bind (memWrite_storable _ _ _) fun _ _ => trivial
  | transfer _ _ _ => trivial
  | tsx _ => trivial
  | txs _ => trivial
  | pha _ => exact Res.storable_bind (push_storable _ _) fun _ _ => trivial
  | php _ => exact Res.storable_bind (push_storable _ _) fun _ _ => trivial
  | pla _ => exact Res.storable_bind (pull_storable _) fun _ _ => trivial
  | plp _ => exact Res.storable_bind (pull_storable _) fun _ _ => trivial
  | logic _ _ _ => exact Res.storable_bind (readSource_storable _ _) fun _ _ => trivial
  | bit _ _ => exact Res.storable_bind (readSource_storable _ _) fun _ _ => trivial
  | adc _ _ => exact Res.storable_bind (readSource_storable _ _) fun _ _ => trivial
  | sbc _ _ => exact Res.storable_bind (readSource_storable _ _) fun _ _ => trivial
  | compare _ _ _ => exact Res.storable_bind (readSource_storable _ _) fun _ _ => trivial
  | inc _ _ =>
    exact Res.storable_bind (resolve_storable _ _) fun _ _ => Res.storable_bind (memRead_storable _ _) fun _ _ =>
      Res.storable_bind (memWrite_storable _ _ _) fun _ _ => trivial
  | dec _ _ =>
    exact Res.storable_bind (resolve_storable _ _) fun _ _ => Res.storable_bind (memRead_storable _ _) fun _ _ =>
      Res.storable_bind (memWrite_storable _ _ _) fun _ _ => trivial
  | stepReg _ _ _ => trivial
  | shiftAcc _ _ => trivial
  | shiftMem _ _ _ =>
    exact Res.storable_bind (resolve_storable _ _) fun _ _ => Res.storable_bind (memRead_storable _ _) fun _ _ =>
      Res.storable_bind (memWrite_storable _ _ _) fun _ _ => trivial
  | jmpAbs _ _ => trivial
  | jmpInd _ _ =>
    exact Res.storable_bind (Res.storable_bind (memRead_storable _ _) fun _ _ =>
      Res.storable_bind (memRead_storable _ _) fun _ _ => trivial) fun _ _ => trivial
  | jsr _ _ => exact Res.storable_bind (push16_storable _ _) fun _ _ => trivial
  | rts _ => exact Res.storable_bind (pull16_storable _) fun _ _ => trivial
  | brk _ => exact Res.storable_bind (enterTrap_storable _ _ _ _) fun _ _ => trivial
  | rti _ => exact Res.storable_bind (returnFromTrap_storable _) fun _ _ => trivial
  | branch _ taken _ =>
    show (Machine.branch i.opcode (taken s.p) _ s).storable
    rw [branch_eq]
    trivial
  | flag _ _ => trivial
  | nop _ => trivial

namespace Kept

variable {P : State → Prop} (K : Kept P)
include K

/-- A register update that leaves U and B alone. -/
theorem regs {s : State} (a x y sp : Byte) (pc : Word) (n : Nat) (h : P s) :
    P { s with a := a, x := x, y := y, sp := sp, pc := pc, cyclesRemaining := n } :=
  K.cpu s a x y sp pc s.p n (.inl ⟨rfl, rfl⟩) h

theorem setNZ {s : State} (d : Byte) (h : P s) : P (s.setNZ d) :=
  K.cpu s s.a s.x s.y s.sp s.pc (s.p.setNZ d) s.cyclesRemaining (.inl ⟨rfl, rfl⟩) h

theorem setReg {s : State} (r : Reg) (d : Byte) (h : P s) : P (s.setReg r d) := by
  cases r
  · exact K.regs d s.x s.y s.sp s.pc s.cyclesRemaining h
  · exact K.regs s.a d s.y s.sp s.pc s.cyclesRemaining h
  · exact K.regs s.a s.x d s.sp s.pc s.cyclesRemaining h

theorem retire (op : Byte) (crossed : Bool) (extra : Nat) {s : State} (h : P s) :
    P (Machine.retire op crossed extra s).left :=
  K.regs s.a s.x s.y s.sp s.pc _ h

theorem push (d : Byte) {s : State} (h : P s) : P (Machine.push d s).left :=
  Res.left_bind (K.write _ _ _ h) fun _ s h => K.regs s.a s.x s.y _ s.pc s.cyclesRemaining h

theorem push16 (w : Word) {s : State} (h : P s) : P (Machine.push16 w s).left :=
  Res.left_bind (K.push _ h) fun _ _ h => K.push _ h

theorem pull {s : State} (h : P s) : P (Machine.pull s).left :=
  K.read _ _ (K.regs s.a s.x s.y (s.sp + 1) s.pc s.cyclesRemaining h)

theorem pull16 {s : State} (h : P s) : P (Machine.pull16 s).left :=
  Res.left_bind (K.pull h) fun _ _ h => Res.left_bind (K.pull h) fun _ _ h => h

theorem read16 (a : Word) {s : State} (h : P s) : P (memRead16 a s).left :=
  Res.left_bind (K.read _ _ h) fun _ _ h => Res.left_bind (K.read _ _ h) fun _ _ h => h

theorem setPc {s : State} (w : Word) (h : P s) : P { s with pc := w } :=
  K.regs s.a s.x s.y s.sp w s.cyclesRemaining h

theorem enterTrap (w : Word) (d : Byte) (v : Word) {s : State} (h : P s) : P (Machine.enterTrap w d v s).left :=
  Res.left_bind (K.push16 _ h) fun _ _ h => Res.left_bind (K.push _ h) fun _ s h =>
    Res.left_bind (K.read16 _ (K.cpu s s.a s.x s.y s.sp s.pc { s.p with i := true } s.cyclesRemaining (.inl ⟨rfl, rfl⟩) h))
      fun _ _ h => K.setPc _ h

theorem setPulled {s : State} (d : Byte) (h : P s) : P { s with p := Flags.pulled d } :=
  K.cpu s s.a s.x s.y s.sp s.pc _ s.cyclesRemaining (.inr (by simp [Flags.pulled_eq])) h

theorem returnFromTrap {s : State} (h : P s) : P (Machine.returnFromTrap s).left :=
  Res.left_bind (K.pull h) fun _ _ h => Res.left_bind (K.pull16 (K.setPulled _ h)) fun _ _ h => K.setPc _ h

omit K in
theorem resolve (m : Addr) {s : State} (h : P s) : P (Machine.resolve m s).left := by
  rw [resolve_eq]
  exact h

theorem readSource (src : Source) {s : State} (h : P s) : P (Machine.readSource src s).left := by
  cases src with
  | imm m => exact h
  | mem m => exact Res.left_bind (resolve m h) fun _ _ h => Res.left_bind (K.read _ _ h) fun _ _ h => h

/-- Every shared body keeps the property. -/
theorem runs {i : Instr} {b : State → Res Unit} (hb : Runs i b) {s : State} (h : P s) : P (b s).left := by
  cases hb with
  | load r src _ => exact Res.left_bind (K.readSource _ h) fun _ _ h => K.retire _ _ _ (K.setNZ _ (K.setReg _ _ h))
  | store r m _ =>
    exact Res.left_bind (resolve _ h) fun _ _ h => Res.left_bind (K.write _ _ _ h) fun _ _ h => K.retire _ _ _ h
  | transfer r q _ => exact K.retire _ _ _ (K.setNZ _ (K.setReg _ _ h))
  | tsx _ => exact K.retire _ _ _ (K.setNZ _ (K.setReg .x _ h))
  | txs _ => exact K.retire _ _ _ (K.regs s.a s.x s.y s.x s.pc s.cyclesRemaining h)
  | pha _ => exact Res.left_bind (K.push _ h) fun _ _ h => K.retire _ _ _ h
  | php _ => exact Res.left_bind (K.push _ h) fun _ _ h => K.retire _ _ _ h
  | pla _ => exact Res.left_bind (K.pull h) fun _ _ h => K.retire _ _ _ (K.setNZ _ (K.setReg .a _ h))
  | plp _ => exact Res.left_bind (K.pull h) fun _ _ h => K.retire _ _ _ (K.setPulled _ h)
  | logic op src _ =>
    exact Res.left_bind (K.readSource _ h) fun _ _ h => K.retire _ _ _ (K.setNZ _ (K.setReg .a _ h))
  | bit src _ =>
    exact Res.left_bind (K.readSource _ h) fun m s h =>
      K.retire _ _ _ (K.cpu s s.a s.x s.y s.sp s.pc _ s.cyclesRemaining (.inl ⟨rfl, rfl⟩) h)
  | adc src _ =>
    exact Res.left_bind (K.readSource _ h) fun m s h =>
      K.retire _ _ _ (K.cpu s _ s.x s.y s.sp s.pc _ s.cyclesRemaining (.inl ⟨rfl, rfl⟩) h)
  | sbc src _ =>
    exact Res.left_bind (K.readSource _ h) fun m s h =>
      K.retire _ _ _ (K.cpu s _ s.x s.y s.sp s.pc _ s.cyclesRemaining (.inl ⟨rfl, rfl⟩) h)
  | compare r src _ =>
    exact Res.left_bind (K.readSource _ h) fun m s h =>
      K.retire _ _ _ (K.cpu s s.a s.x s.y s.sp s.pc _ s.cyclesRemaining (.inl ⟨rfl, rfl⟩) h)
  | inc m _ =>
    exact Res.left_bind (resolve _ h) fun _ _ h => Res.left_bind (K.read _ _ h) fun _ _ h =>
      Res.left_bind (K.write _ _ _ h) fun _ _ h => K.retire _ _ _ (K.setNZ _ h)
  | dec m _ =>
    exact Res.left_bind (resolve _ h) fun _ _ h => Res.left_bind (K.read _ _ h) fun _ _ h =>
      Res.left_bind (K.write _ _ _ h) fun _ _ h => K.retire _ _ _ (K.setNZ _ h)
  | stepReg r up _ => exact K.retire _ _ _ (K.setNZ _ (K.setReg _ _ h))
  | shiftAcc op _ =>
    exact K.retire _ _ _ (K.cpu s _ s.x s.y s.sp s.pc _ s.cyclesRemaining (.inl ⟨rfl, rfl⟩) h)
  | shiftMem op m _ =>
    exact Res.left_bind (resolve _ h) fun _ _ h => Res.left_bind (K.read _ _ h) fun _ s h =>
      Res.left_bind (K.write _ _ _ (K.cpu s s.a s.x s.y s.sp s.pc _ s.cyclesRemaining (.inl ⟨rfl, rfl⟩) h))
        fun _ _ h => K.retire _ _ _ (K.setNZ _ h)
  | jmpAbs a _ => exact K.retire _ _ _ (K.setPc _ h)
  | jmpInd a _ =>
    exact Res.left_bind (Res.left_bind (K.read _ _ h) fun _ _ h => Res.left_bind (K.read _ _ h) fun _ _ h => h)
      fun _ _ h => K.retire _ _ _ (K.setPc _ h)
  | jsr a _ => exact Res.left_bind (K.push16 _ h) fun _ _ h => K.retire _ _ _ (K.setPc _ h)
  | rts _ => exact Res.left_bind (K.pull16 h) fun _ _ h => K.retire _ _ _ (K.setPc _ h)
  | brk _ => exact Res.left_bind (K.enterTrap _ _ _ (K.setPc _ h)) fun _ _ h => K.retire _ _ _ h
  | rti _ => exact Res.left_bind (K.returnFromTrap h) fun _ _ h => K.retire _ _ _ h
  | branch d taken _ =>
    show P (Machine.branch i.opcode (taken s.p) d s).left
    rw [branch_eq]
    exact K.regs s.a s.x s.y s.sp _ _ h
  | flag f hf =>
    refine K.retire _ _ _ (K.cpu s s.a s.x s.y s.sp s.pc _ s.cyclesRemaining (.inl ?_) h)
    have hf := hf s.p
    cases i <;> simp only [flagForm, reduceCtorEq, Option.some.injEq] at hf <;> rw [← hf] <;> exact ⟨rfl, rfl⟩
  | nop _ => exact K.retire _ _ _ h

/-- What a micro-operation's outcome keeps, the recorded fault included. -/
theorem outcome {r : Res Unit} (hr : r.storable) {t : State} (h : P r.left) (ht : r.outcome = .next t) : P t := by
  cases r with
  | ok v s => cases ht; exact h
  | raised f s => cases ht; exact K.fault s f hr h

/-- Every instruction keeps the property, whether or not it raises. -/
theorem exec {i : Instr} {s t : State} (h : P s) (ht : Machine.exec i s = .next t) : P t := by
  obtain ⟨b, hb, e⟩ := runs_exec i
  rw [e] at ht
  exact K.outcome (hb.storable s) (K.runs hb h) ht

end Kept

end Sys2Proof.Machine
end

