-- ==== Sys2Proof/Laws/PerInstr.lean ====
section
/-!
SUPPORT. One small law per instruction, as syntax: it is well formed, its bytes are as many as its mode says, its opcode byte
has an entry in the matrix, and its opcode byte is not one of the listed bytes without entry.
-/
namespace Sys2Proof.Laws.Shape

/-- R100, R110, R114, R115: the shape of an instruction. -/
def Statement (i : Instr) : Prop :=
  i.wellFormed = true ∧ (encode i).length = i.length ∧ (formOf i.opcode).isSome = true ∧
    i.opcode ∉ Machine.undocumentedOpcodes

theorem of_opcode {i : Instr} (h : i.wellFormed = true) (hl : (encode i).length = i.length)
    (hf : (formOf i.opcode).isSome = true) : Statement i := by
  refine ⟨h, hl, hf, fun hu => ?_⟩
  have hn := formOf_isNone i.opcode
  rw [List.contains_iff_mem.mpr hu] at hn
  cases hx : formOf i.opcode with
  | none => rw [hx] at hf; cases hf
  | some f => rw [hx] at hn; cases hn

theorem ldaImm (m : Byte) : Statement (.ldaImm m) := of_opcode rfl rfl rfl
theorem ldaZp (z : Byte) : Statement (.ldaZp z) := of_opcode rfl rfl rfl
theorem ldaZpx (z : Byte) : Statement (.ldaZpx z) := of_opcode rfl rfl rfl
theorem ldaAbs (a : Word) : Statement (.ldaAbs a) := of_opcode rfl rfl rfl
theorem ldaAbsx (a : Word) : Statement (.ldaAbsx a) := of_opcode rfl rfl rfl
theorem ldaAbsy (a : Word) : Statement (.ldaAbsy a) := of_opcode rfl rfl rfl
theorem ldaIndx (z : Byte) : Statement (.ldaIndx z) := of_opcode rfl rfl rfl
theorem ldaIndy (z : Byte) : Statement (.ldaIndy z) := of_opcode rfl rfl rfl
theorem ldxImm (m : Byte) : Statement (.ldxImm m) := of_opcode rfl rfl rfl
theorem ldxZp (z : Byte) : Statement (.ldxZp z) := of_opcode rfl rfl rfl
theorem ldxZpy (z : Byte) : Statement (.ldxZpy z) := of_opcode rfl rfl rfl
theorem ldxAbs (a : Word) : Statement (.ldxAbs a) := of_opcode rfl rfl rfl
theorem ldxAbsy (a : Word) : Statement (.ldxAbsy a) := of_opcode rfl rfl rfl
theorem ldyImm (m : Byte) : Statement (.ldyImm m) := of_opcode rfl rfl rfl
theorem ldyZp (z : Byte) : Statement (.ldyZp z) := of_opcode rfl rfl rfl
theorem ldyZpx (z : Byte) : Statement (.ldyZpx z) := of_opcode rfl rfl rfl
theorem ldyAbs (a : Word) : Statement (.ldyAbs a) := of_opcode rfl rfl rfl
theorem ldyAbsx (a : Word) : Statement (.ldyAbsx a) := of_opcode rfl rfl rfl
theorem staZp (z : Byte) : Statement (.staZp z) := of_opcode rfl rfl rfl
theorem staZpx (z : Byte) : Statement (.staZpx z) := of_opcode rfl rfl rfl
theorem staAbs (a : Word) : Statement (.staAbs a) := of_opcode rfl rfl rfl
theorem staAbsx (a : Word) : Statement (.staAbsx a) := of_opcode rfl rfl rfl
theorem staAbsy (a : Word) : Statement (.staAbsy a) := of_opcode rfl rfl rfl
theorem staIndx (z : Byte) : Statement (.staIndx z) := of_opcode rfl rfl rfl
theorem staIndy (z : Byte) : Statement (.staIndy z) := of_opcode rfl rfl rfl
theorem stxZp (z : Byte) : Statement (.stxZp z) := of_opcode rfl rfl rfl
theorem stxZpy (z : Byte) : Statement (.stxZpy z) := of_opcode rfl rfl rfl
theorem stxAbs (a : Word) : Statement (.stxAbs a) := of_opcode rfl rfl rfl
theorem styZp (z : Byte) : Statement (.styZp z) := of_opcode rfl rfl rfl
theorem styZpx (z : Byte) : Statement (.styZpx z) := of_opcode rfl rfl rfl
theorem styAbs (a : Word) : Statement (.styAbs a) := of_opcode rfl rfl rfl
theorem tax : Statement .tax := of_opcode rfl rfl rfl
theorem tay : Statement .tay := of_opcode rfl rfl rfl
theorem txa : Statement .txa := of_opcode rfl rfl rfl
theorem tya : Statement .tya := of_opcode rfl rfl rfl
theorem tsx : Statement .tsx := of_opcode rfl rfl rfl
theorem txs : Statement .txs := of_opcode rfl rfl rfl
theorem pha : Statement .pha := of_opcode rfl rfl rfl
theorem php : Statement .php := of_opcode rfl rfl rfl
theorem pla : Statement .pla := of_opcode rfl rfl rfl
theorem plp : Statement .plp := of_opcode rfl rfl rfl
theorem andImm (m : Byte) : Statement (.andImm m) := of_opcode rfl rfl rfl
theorem andZp (z : Byte) : Statement (.andZp z) := of_opcode rfl rfl rfl
theorem andZpx (z : Byte) : Statement (.andZpx z) := of_opcode rfl rfl rfl
theorem andAbs (a : Word) : Statement (.andAbs a) := of_opcode rfl rfl rfl
theorem andAbsx (a : Word) : Statement (.andAbsx a) := of_opcode rfl rfl rfl
theorem andAbsy (a : Word) : Statement (.andAbsy a) := of_opcode rfl rfl rfl
theorem andIndx (z : Byte) : Statement (.andIndx z) := of_opcode rfl rfl rfl
theorem andIndy (z : Byte) : Statement (.andIndy z) := of_opcode rfl rfl rfl
theorem oraImm (m : Byte) : Statement (.oraImm m) := of_opcode rfl rfl rfl
theorem oraZp (z : Byte) : Statement (.oraZp z) := of_opcode rfl rfl rfl
theorem oraZpx (z : Byte) : Statement (.oraZpx z) := of_opcode rfl rfl rfl
theorem oraAbs (a : Word) : Statement (.oraAbs a) := of_opcode rfl rfl rfl
theorem oraAbsx (a : Word) : Statement (.oraAbsx a) := of_opcode rfl rfl rfl
theorem oraAbsy (a : Word) : Statement (.oraAbsy a) := of_opcode rfl rfl rfl
theorem oraIndx (z : Byte) : Statement (.oraIndx z) := of_opcode rfl rfl rfl
theorem oraIndy (z : Byte) : Statement (.oraIndy z) := of_opcode rfl rfl rfl
theorem eorImm (m : Byte) : Statement (.eorImm m) := of_opcode rfl rfl rfl
theorem eorZp (z : Byte) : Statement (.eorZp z) := of_opcode rfl rfl rfl
theorem eorZpx (z : Byte) : Statement (.eorZpx z) := of_opcode rfl rfl rfl
theorem eorAbs (a : Word) : Statement (.eorAbs a) := of_opcode rfl rfl rfl
theorem eorAbsx (a : Word) : Statement (.eorAbsx a) := of_opcode rfl rfl rfl
theorem eorAbsy (a : Word) : Statement (.eorAbsy a) := of_opcode rfl rfl rfl
theorem eorIndx (z : Byte) : Statement (.eorIndx z) := of_opcode rfl rfl rfl
theorem eorIndy (z : Byte) : Statement (.eorIndy z) := of_opcode rfl rfl rfl
theorem bitZp (z : Byte) : Statement (.bitZp z) := of_opcode rfl rfl rfl
theorem bitAbs (a : Word) : Statement (.bitAbs a) := of_opcode rfl rfl rfl
theorem adcImm (m : Byte) : Statement (.adcImm m) := of_opcode rfl rfl rfl
theorem adcZp (z : Byte) : Statement (.adcZp z) := of_opcode rfl rfl rfl
theorem adcZpx (z : Byte) : Statement (.adcZpx z) := of_opcode rfl rfl rfl
theorem adcAbs (a : Word) : Statement (.adcAbs a) := of_opcode rfl rfl rfl
theorem adcAbsx (a : Word) : Statement (.adcAbsx a) := of_opcode rfl rfl rfl
theorem adcAbsy (a : Word) : Statement (.adcAbsy a) := of_opcode rfl rfl rfl
theorem adcIndx (z : Byte) : Statement (.adcIndx z) := of_opcode rfl rfl rfl
theorem adcIndy (z : Byte) : Statement (.adcIndy z) := of_opcode rfl rfl rfl
theorem sbcImm (m : Byte) : Statement (.sbcImm m) := of_opcode rfl rfl rfl
theorem sbcZp (z : Byte) : Statement (.sbcZp z) := of_opcode rfl rfl rfl
theorem sbcZpx (z : Byte) : Statement (.sbcZpx z) := of_opcode rfl rfl rfl
theorem sbcAbs (a : Word) : Statement (.sbcAbs a) := of_opcode rfl rfl rfl
theorem sbcAbsx (a : Word) : Statement (.sbcAbsx a) := of_opcode rfl rfl rfl
theorem sbcAbsy (a : Word) : Statement (.sbcAbsy a) := of_opcode rfl rfl rfl
theorem sbcIndx (z : Byte) : Statement (.sbcIndx z) := of_opcode rfl rfl rfl
theorem sbcIndy (z : Byte) : Statement (.sbcIndy z) := of_opcode rfl rfl rfl
theorem cmpImm (m : Byte) : Statement (.cmpImm m) := of_opcode rfl rfl rfl
theorem cmpZp (z : Byte) : Statement (.cmpZp z) := of_opcode rfl rfl rfl
theorem cmpZpx (z : Byte) : Statement (.cmpZpx z) := of_opcode rfl rfl rfl
theorem cmpAbs (a : Word) : Statement (.cmpAbs a) := of_opcode rfl rfl rfl
theorem cmpAbsx (a : Word) : Statement (.cmpAbsx a) := of_opcode rfl rfl rfl
theorem cmpAbsy (a : Word) : Statement (.cmpAbsy a) := of_opcode rfl rfl rfl
theorem cmpIndx (z : Byte) : Statement (.cmpIndx z) := of_opcode rfl rfl rfl
theorem cmpIndy (z : Byte) : Statement (.cmpIndy z) := of_opcode rfl rfl rfl
theorem cpxImm (m : Byte) : Statement (.cpxImm m) := of_opcode rfl rfl rfl
theorem cpxZp (z : Byte) : Statement (.cpxZp z) := of_opcode rfl rfl rfl
theorem cpxAbs (a : Word) : Statement (.cpxAbs a) := of_opcode rfl rfl rfl
theorem cpyImm (m : Byte) : Statement (.cpyImm m) := of_opcode rfl rfl rfl
theorem cpyZp (z : Byte) : Statement (.cpyZp z) := of_opcode rfl rfl rfl
theorem cpyAbs (a : Word) : Statement (.cpyAbs a) := of_opcode rfl rfl rfl
theorem incZp (z : Byte) : Statement (.incZp z) := of_opcode rfl rfl rfl
theorem incZpx (z : Byte) : Statement (.incZpx z) := of_opcode rfl rfl rfl
theorem incAbs (a : Word) : Statement (.incAbs a) := of_opcode rfl rfl rfl
theorem incAbsx (a : Word) : Statement (.incAbsx a) := of_opcode rfl rfl rfl
theorem inx : Statement .inx := of_opcode rfl rfl rfl
theorem iny : Statement .iny := of_opcode rfl rfl rfl
theorem decZp (z : Byte) : Statement (.decZp z) := of_opcode rfl rfl rfl
theorem decZpx (z : Byte) : Statement (.decZpx z) := of_opcode rfl rfl rfl
theorem decAbs (a : Word) : Statement (.decAbs a) := of_opcode rfl rfl rfl
theorem decAbsx (a : Word) : Statement (.decAbsx a) := of_opcode rfl rfl rfl
theorem dex : Statement .dex := of_opcode rfl rfl rfl
theorem dey : Statement .dey := of_opcode rfl rfl rfl
theorem aslAcc : Statement .aslAcc := of_opcode rfl rfl rfl
theorem aslZp (z : Byte) : Statement (.aslZp z) := of_opcode rfl rfl rfl
theorem aslZpx (z : Byte) : Statement (.aslZpx z) := of_opcode rfl rfl rfl
theorem aslAbs (a : Word) : Statement (.aslAbs a) := of_opcode rfl rfl rfl
theorem aslAbsx (a : Word) : Statement (.aslAbsx a) := of_opcode rfl rfl rfl
theorem lsrAcc : Statement .lsrAcc := of_opcode rfl rfl rfl
theorem lsrZp (z : Byte) : Statement (.lsrZp z) := of_opcode rfl rfl rfl
theorem lsrZpx (z : Byte) : Statement (.lsrZpx z) := of_opcode rfl rfl rfl
theorem lsrAbs (a : Word) : Statement (.lsrAbs a) := of_opcode rfl rfl rfl
theorem lsrAbsx (a : Word) : Statement (.lsrAbsx a) := of_opcode rfl rfl rfl
theorem rolAcc : Statement .rolAcc := of_opcode rfl rfl rfl
theorem rolZp (z : Byte) : Statement (.rolZp z) := of_opcode rfl rfl rfl
theorem rolZpx (z : Byte) : Statement (.rolZpx z) := of_opcode rfl rfl rfl
theorem rolAbs (a : Word) : Statement (.rolAbs a) := of_opcode rfl rfl rfl
theorem rolAbsx (a : Word) : Statement (.rolAbsx a) := of_opcode rfl rfl rfl
theorem rorAcc : Statement .rorAcc := of_opcode rfl rfl rfl
theorem rorZp (z : Byte) : Statement (.rorZp z) := of_opcode rfl rfl rfl
theorem rorZpx (z : Byte) : Statement (.rorZpx z) := of_opcode rfl rfl rfl
theorem rorAbs (a : Word) : Statement (.rorAbs a) := of_opcode rfl rfl rfl
theorem rorAbsx (a : Word) : Statement (.rorAbsx a) := of_opcode rfl rfl rfl
theorem jmpAbs (a : Word) : Statement (.jmpAbs a) := of_opcode rfl rfl rfl
theorem jmpInd (a : Word) : Statement (.jmpInd a) := of_opcode rfl rfl rfl
theorem jsr (a : Word) : Statement (.jsr a) := of_opcode rfl rfl rfl
theorem rts : Statement .rts := of_opcode rfl rfl rfl
theorem brk : Statement .brk := of_opcode rfl rfl rfl
theorem rti : Statement .rti := of_opcode rfl rfl rfl
theorem bcc (d : Byte) : Statement (.bcc d) := of_opcode rfl rfl rfl
theorem bcs (d : Byte) : Statement (.bcs d) := of_opcode rfl rfl rfl
theorem beq (d : Byte) : Statement (.beq d) := of_opcode rfl rfl rfl
theorem bne (d : Byte) : Statement (.bne d) := of_opcode rfl rfl rfl
theorem bmi (d : Byte) : Statement (.bmi d) := of_opcode rfl rfl rfl
theorem bpl (d : Byte) : Statement (.bpl d) := of_opcode rfl rfl rfl
theorem bvc (d : Byte) : Statement (.bvc d) := of_opcode rfl rfl rfl
theorem bvs (d : Byte) : Statement (.bvs d) := of_opcode rfl rfl rfl
theorem clc : Statement .clc := of_opcode rfl rfl rfl
theorem sec : Statement .sec := of_opcode rfl rfl rfl
theorem cli : Statement .cli := of_opcode rfl rfl rfl
theorem sei : Statement .sei := of_opcode rfl rfl rfl
theorem clv : Statement .clv := of_opcode rfl rfl rfl
theorem cld : Statement .cld := of_opcode rfl rfl rfl
theorem sed : Statement .sed := of_opcode rfl rfl rfl
theorem nop : Statement .nop := of_opcode rfl rfl rfl

end Sys2Proof.Laws.Shape
end

