-- ==== Sys2Proof/Laws/Ppu.lean ====
section
/-!
SUPPORT. One PPU cycle in closed form: what it makes of the PPU as a function of the PPU and the launch parameters alone, and
the three fields of the machine outside the PPU that it may change; which fields of the PPU each part of it leaves alone; what
the renderer does inside and outside a fetch window; and that it keeps the canonical forms.
-/
namespace Sys2Proof.Machine

/-! ## The parts of a cycle as functions of the PPU -/

/-- The position after the advance (R281). -/
def Ppu.advanced (p : Ppu) : Ppu :=
  { p with
    scanline := if p.cycle = 340 then (if p.scanline = 261 then 0 else p.scanline + 1) else p.scanline
    cycle := if p.cycle = 340 then 0 else p.cycle + 1 }

/-- The status bits after the events at (241, 1) and (261, 1) (R284, R285). -/
def Ppu.afterEvents (p : Ppu) : Ppu :=
  { p with
    vblank := if p.scanline = 241 ∧ p.cycle = 1 then true
      else if p.scanline = 261 ∧ p.cycle = 1 then false else p.vblank
    sprite0Hit := p.sprite0Hit && !decide (p.scanline = 261 ∧ p.cycle = 1)
    spriteOverflow := p.spriteOverflow && !decide (p.scanline = 261 ∧ p.cycle = 1) }

/-- Whether a cycle draws from the sprite oracle (R280, R305). -/
def Ppu.draws (l : Launch) (p : Ppu) : Bool :=
  renderLine p.scanline && p.renderingEnabled && l.spriteOracle == .unconstrained

/-- The PPU after the rendering part of a cycle (R280), the n-th draw of the sprite oracle included. -/
def Ppu.rendered (l : Launch) (n : Nat) (p : Ppu) : Ppu :=
  if renderLine p.scanline then
    if p.renderingEnabled then
      if l.spriteOracle = .unconstrained then
        { p.renderEnabled l.mirroring with
          sprite0Hit := (p.renderEnabled l.mirroring).sprite0Hit || (Config.spriteDraw n).hit
          spriteOverflow := (p.renderEnabled l.mirroring).spriteOverflow || (Config.spriteDraw n).overflow }
      else p.renderEnabled l.mirroring
    else whenever (visiblePixel p.scanline p.cycle) (Ppu.emitBackdrop l.mirroring) p
  else p

theorem advancePosition_eq (s : State) : advancePosition s =
    { s with
      ppu := s.ppu.advanced
      frameComplete := s.frameComplete || decide (s.ppu.scanline = 261 ∧ s.ppu.cycle = 340) } := by
  unfold advancePosition Ppu.advanced
  by_cases h : s.ppu.cycle = 340 <;> by_cases h' : s.ppu.scanline = 261 <;> simp [h, h']

theorem statusEvents_eq (s : State) : statusEvents s =
    { s with
      ppu := s.ppu.afterEvents
      nmiPending := s.nmiPending || (decide (s.ppu.scanline = 241 ∧ s.ppu.cycle = 1) && s.ppu.nmiEnable) } := by
  unfold statusEvents Ppu.afterEvents
  by_cases h : s.ppu.scanline = 241 ∧ s.ppu.cycle = 1
  · obtain ⟨h1, h2⟩ := h
    simp [h1, h2]
  · by_cases h' : s.ppu.scanline = 261 ∧ s.ppu.cycle = 1
    · obtain ⟨h1, h2⟩ := h'
      simp [h1, h2]
    · simp [h, h']

theorem renderStep_eq (s : State) : renderStep s =
    { s with
      ppu := s.ppu.rendered s.launch s.spriteDraws
      spriteDraws := s.spriteDraws + carryNat (s.ppu.draws s.launch) } := by
  unfold renderStep Ppu.rendered Ppu.draws spriteOracle
  cases renderLine s.ppu.scanline <;> cases s.ppu.renderingEnabled <;> cases s.launch.spriteOracle <;> rfl

/-! ## Which fields each part leaves -/

/-- The fields of the PPU that no rendering cycle touches: the others are put at 0. -/
def Ppu.still (p : Ppu) : Ppu :=
  { p with
    v := 0, ntLatch := 0, atLatch := 0, ptLoLatch := 0, ptHiLatch := 0, atBitLo := false, atBitHi := false
    bgLo := 0, bgHi := 0, atLo := 0, atHi := 0, fb := [] }

theorem Ppu.fetchStep_still (m : Mirroring) (c : Nat) (p : Ppu) : (p.fetchStep m c).still = p.still := by
  unfold Ppu.fetchStep
  split <;> rfl

theorem Ppu.fetchStep_fb (m : Mirroring) (c : Nat) (p : Ppu) : (p.fetchStep m c).fb = p.fb := by
  unfold Ppu.fetchStep
  split <;> rfl

/-- What every part of a conditional change keeps. -/
theorem whenever_keeps {α β : Type} (g : α → β) (c : Bool) (f : α → α) (hf : ∀ x, g (f x) = g x) (x : α) :
    g (whenever c f x) = g x := by
  unfold whenever
  split
  · exact hf x
  · rfl

/-- A rendering cycle with rendering enabled leaves the registers, the memories, the position and the status bits. -/
theorem Ppu.renderEnabled_still (m : Mirroring) (p : Ppu) : (p.renderEnabled m).still = p.still := by
  unfold Ppu.renderEnabled
  refine (whenever_keeps Ppu.still _ _ (fun _ => by rfl) _).trans ?_
  refine (whenever_keeps Ppu.still _ _ (fun _ => by rfl) _).trans ?_
  refine whenever_keeps Ppu.still _ _ (fun q => ?_) _
  refine (whenever_keeps Ppu.still _ _ (fun _ => by rfl) _).trans ?_
  refine (Ppu.fetchStep_still _ _ _).trans ?_
  exact whenever_keeps Ppu.still (visiblePixel p.scanline p.cycle) (Ppu.emitPixel m) (fun _ => by rfl) q

/-- The frame buffer after a rendering cycle: the pixel is the one thing stored (R299). -/
theorem Ppu.renderEnabled_fb (m : Mirroring) (p : Ppu) : (p.renderEnabled m).fb =
    (whenever (visiblePixel p.scanline p.cycle) (Ppu.emitPixel m) p).fb := by
  unfold Ppu.renderEnabled
  refine (whenever_keeps Ppu.fb _ _ (fun _ => by rfl) _).trans ?_
  refine (whenever_keeps Ppu.fb _ _ (fun _ => by rfl) _).trans ?_
  by_cases hw : fetchWindow p.cycle = true
  · refine (congrArg Ppu.fb (show whenever (fetchWindow p.cycle) _ p = _ from if_pos hw)).trans ?_
    refine (whenever_keeps Ppu.fb _ _ (fun _ => by rfl) _).trans ?_
    exact Ppu.fetchStep_fb _ _ _
  · refine (congrArg Ppu.fb (show whenever (fetchWindow p.cycle) _ p = p from if_neg hw)).trans ?_
    have hv : visiblePixel p.scanline p.cycle = false := by
      simp only [fetchWindow, Bool.or_eq_true, Bool.and_eq_true, decide_eq_true_eq, not_or, not_and] at hw
      simp only [visiblePixel, Bool.and_eq_false_iff, decide_eq_false_iff_not]
      omega
    rw [hv]
    rfl

/-- A rendering cycle changes only `v`, the latches, the shifters and the frame buffer (R280, R289 to R299). -/
theorem Ppu.renderEnabled_frame (m : Mirroring) (p : Ppu) : ∃ v nt at' lo hi bl bh sl sh al ah fb,
    p.renderEnabled m = { p with
      v := v, ntLatch := nt, atLatch := at', ptLoLatch := lo, ptHiLatch := hi, atBitLo := bl, atBitHi := bh
      bgLo := sl, bgHi := sh, atLo := al, atHi := ah, fb := fb } := by
  have h := Ppu.renderEnabled_still m p
  generalize p.renderEnabled m = q at h ⊢
  refine ⟨q.v, q.ntLatch, q.atLatch, q.ptLoLatch, q.ptHiLatch, q.atBitLo, q.atBitHi, q.bgLo, q.bgHi, q.atLo, q.atHi, q.fb, ?_⟩
  exact (congrArg (fun r : Ppu => { r with
      v := q.v, ntLatch := q.ntLatch, atLatch := q.atLatch, ptLoLatch := q.ptLoLatch, ptHiLatch := q.ptHiLatch
      atBitLo := q.atBitLo, atBitHi := q.atBitHi, bgLo := q.bgLo, bgHi := q.bgHi, atLo := q.atLo, atHi := q.atHi
      fb := q.fb }) h)

/-- The rendering part of a cycle changes only `v`, the latches, the shifters, the frame buffer and the sprite bits. -/
theorem Ppu.rendered_frame (l : Launch) (n : Nat) (p : Ppu) : ∃ hit ovf v nt at' lo hi bl bh sl sh al ah fb,
    p.rendered l n = { p with
      sprite0Hit := hit, spriteOverflow := ovf
      v := v, ntLatch := nt, atLatch := at', ptLoLatch := lo, ptHiLatch := hi, atBitLo := bl, atBitHi := bh
      bgLo := sl, bgHi := sh, atLo := al, atHi := ah, fb := fb } := by
  obtain ⟨v, nt, a, lo, hi, bl, bh, sl, sh, al, ah, fb, h⟩ := Ppu.renderEnabled_frame l.mirroring p
  unfold Ppu.rendered whenever
  split
  · split
    · split
      · rw [h]
        exact ⟨_, _, _, _, _, _, _, _, _, _, _, _, _, _, rfl⟩
      · rw [h]
        exact ⟨_, _, _, _, _, _, _, _, _, _, _, _, _, _, rfl⟩
    · split <;> exact ⟨_, _, _, _, _, _, _, _, _, _, _, _, _, _, rfl⟩
  · exact ⟨_, _, _, _, _, _, _, _, _, _, _, _, _, _, rfl⟩

/-- With the oracle `never` the rendering part leaves the sprite bits (R305). -/
theorem Ppu.rendered_never {l : Launch} (h : l.spriteOracle = .never) (n : Nat) (p : Ppu) :
    (p.rendered l n).sprite0Hit = p.sprite0Hit ∧ (p.rendered l n).spriteOverflow = p.spriteOverflow := by
  obtain ⟨v, nt, a, lo, hi, bl, bh, sl, sh, al, ah, fb, hr⟩ := Ppu.renderEnabled_frame l.mirroring p
  unfold Ppu.rendered whenever
  simp only [h, reduceCtorEq, if_false, hr]
  repeat' split
  all_goals exact ⟨rfl, rfl⟩

/-! ## The whole cycle -/

/-- The PPU after a cycle (R280), the n-th draw of the sprite oracle included. -/
def Ppu.next (l : Launch) (n : Nat) (p : Ppu) : Ppu := (p.afterEvents.rendered l n).advanced

/-- One PPU cycle changes the PPU, as a function of the PPU and the launch parameters alone, and three fields beside it: the
NMI set at (241, 1), the frame signal set at (261, 340), and the count of oracle draws. -/
theorem ppuCycle_eq (s : State) : ppuCycle s =
    { s with
      ppu := s.ppu.next s.launch s.spriteDraws
      nmiPending := s.nmiPending || (decide (s.ppu.scanline = 241 ∧ s.ppu.cycle = 1) && s.ppu.nmiEnable)
      frameComplete := s.frameComplete || decide (s.ppu.scanline = 261 ∧ s.ppu.cycle = 340)
      spriteDraws := s.spriteDraws + carryNat (s.ppu.draws s.launch) } := by
  rw [ppuCycle, statusEvents_eq, renderStep_eq, advancePosition_eq]
  simp only [Ppu.next]
  obtain ⟨_, _, _, _, _, _, _, _, _, _, _, _, _, _, h⟩ := Ppu.rendered_frame s.launch s.spriteDraws s.ppu.afterEvents
  rw [h]
  rfl

/-- A cycle leaves the registers, the memories and the write toggle of the PPU alone, and moves the position (R280, R281). -/
theorem Ppu.next_frame (l : Launch) (n : Nat) (p : Ppu) : ∃ hit ovf v nt at' lo hi bl bh sl sh al ah fb,
    p.next l n = { p with
      vblank := p.afterEvents.vblank, scanline := p.advanced.scanline, cycle := p.advanced.cycle
      sprite0Hit := hit, spriteOverflow := ovf
      v := v, ntLatch := nt, atLatch := at', ptLoLatch := lo, ptHiLatch := hi, atBitLo := bl, atBitHi := bh
      bgLo := sl, bgHi := sh, atLo := al, atHi := ah, fb := fb } := by
  obtain ⟨h1, h2, v, nt, a, lo, hi, bl, bh, sl, sh, al, ah, fb, h⟩ := Ppu.rendered_frame l n p.afterEvents
  exact ⟨h1, h2, v, nt, a, lo, hi, bl, bh, sl, sh, al, ah, fb, by rw [Ppu.next, h]; rfl⟩

@[simp] theorem ppuCycle_a (s : State) : (ppuCycle s).a = s.a := by rw [ppuCycle_eq]
@[simp] theorem ppuCycle_x (s : State) : (ppuCycle s).x = s.x := by rw [ppuCycle_eq]
@[simp] theorem ppuCycle_y (s : State) : (ppuCycle s).y = s.y := by rw [ppuCycle_eq]
@[simp] theorem ppuCycle_sp (s : State) : (ppuCycle s).sp = s.sp := by rw [ppuCycle_eq]
@[simp] theorem ppuCycle_pc (s : State) : (ppuCycle s).pc = s.pc := by rw [ppuCycle_eq]
@[simp] theorem ppuCycle_p (s : State) : (ppuCycle s).p = s.p := by rw [ppuCycle_eq]
@[simp] theorem ppuCycle_cyclesRemaining (s : State) : (ppuCycle s).cyclesRemaining = s.cyclesRemaining := by
  rw [ppuCycle_eq]
@[simp] theorem ppuCycle_fault (s : State) : (ppuCycle s).fault = s.fault := by rw [ppuCycle_eq]
@[simp] theorem ppuCycle_ram (s : State) : (ppuCycle s).ram = s.ram := by rw [ppuCycle_eq]
@[simp] theorem ppuCycle_ext (s : State) : (ppuCycle s).ext = s.ext := by rw [ppuCycle_eq]
@[simp] theorem ppuCycle_launch (s : State) : (ppuCycle s).launch = s.launch := by rw [ppuCycle_eq]
@[simp] theorem ppuCycle_ppu (s : State) : (ppuCycle s).ppu = s.ppu.next s.launch s.spriteDraws := by rw [ppuCycle_eq]

/-- A PPU cycle does not depend on the CPU: it commutes with counting owed cycles. -/
theorem ppuCycle_with_cyclesRemaining (s : State) (n : Nat) :
    ppuCycle { s with cyclesRemaining := n } = { ppuCycle s with cyclesRemaining := n } := by
  simp only [ppuCycle_eq]

/-! ## The pipeline at one position -/

/-- A rendering cycle in a fetch window (R280, R288): the pixel, the shift, the fetch, and the step to the next row at 256. -/
theorem Ppu.renderEnabled_window {p : Ppu} (m : Mirroring) (h : fetchWindow p.cycle = true) : ∃ fb, p.renderEnabled m =
    whenever (p.cycle == 256) (fun p => { p with v := incY p.v })
      (({ p with fb := fb } : Ppu).shiftStep.fetchStep m p.cycle) := by
  have h1 : (p.cycle == 257) = false := by
    rw [beq_eq_false_iff_ne]; rintro e; rw [e] at h; cases h
  have h2 : (p.scanline == 261 && decide (280 ≤ p.cycle) && decide (p.cycle ≤ 304)) = false := by
    simp only [fetchWindow, Bool.or_eq_true, Bool.and_eq_true, decide_eq_true_eq] at h
    simp only [Bool.and_eq_false_iff, decide_eq_false_iff_not]
    omega
  unfold Ppu.renderEnabled
  simp only [h, h1, h2]
  unfold whenever
  simp only [if_true, Bool.false_eq_true, if_false]
  cases visiblePixel p.scanline p.cycle
  · exact ⟨p.fb, rfl⟩
  · exact ⟨_, rfl⟩

/-- A rendering cycle outside the fetch windows only copies coordinates from `t` (R280, R296, R297). -/
theorem Ppu.renderEnabled_idle {p : Ppu} (m : Mirroring) (h : fetchWindow p.cycle = false) : p.renderEnabled m =
    whenever (p.scanline == 261 && decide (280 ≤ p.cycle) && decide (p.cycle ≤ 304)) Ppu.copyVertical
      (whenever (p.cycle == 257) Ppu.copyHorizontal p) := by
  unfold Ppu.renderEnabled
  simp only [h]
  rfl

/-- A conditional change commutes with what its change commutes with. -/
theorem whenever_comm {α : Type} {f g : α → α} (h : ∀ x, f (g x) = g (f x)) (c : Bool) (x : α) :
    whenever c f (g x) = g (whenever c f x) := by
  unfold whenever
  split
  · exact h x
  · rfl

/-- The PPU with other status bits. -/
def Ppu.withStatus (a b c : Bool) (p : Ppu) : Ppu := { p with vblank := a, sprite0Hit := b, spriteOverflow := c }

theorem Ppu.fetchStep_withStatus (m : Mirroring) (n : Nat) (a b c : Bool) (p : Ppu) :
    (p.withStatus a b c).fetchStep m n = (p.fetchStep m n).withStatus a b c := by
  unfold Ppu.fetchStep
  split <;> rfl

/-- The renderer neither reads nor moves the status bits. -/
theorem Ppu.renderEnabled_withStatus (m : Mirroring) (p : Ppu) (a b c : Bool) :
    (p.withStatus a b c).renderEnabled m = (p.renderEnabled m).withStatus a b c := by
  show whenever _ _ (whenever _ _ (whenever _ _ (p.withStatus a b c))) = _
  rw [whenever_comm (g := Ppu.withStatus a b c), whenever_comm (f := Ppu.copyHorizontal) (g := Ppu.withStatus a b c) (fun _ => rfl),
    whenever_comm (f := Ppu.copyVertical) (g := Ppu.withStatus a b c) (fun _ => rfl)]
  · rfl
  · intro q
    show whenever _ _ ((whenever _ _ (q.withStatus a b c)).shiftStep.fetchStep m _) = _
    rw [whenever_comm (f := Ppu.emitPixel m) (g := Ppu.withStatus a b c) (fun _ => rfl)]
    show whenever _ _ (Ppu.fetchStep m _ ((whenever _ (Ppu.emitPixel m) q).shiftStep.withStatus a b c)) = _
    rw [Ppu.fetchStep_withStatus]
    exact whenever_comm (f := fun r : Ppu => { r with v := incY r.v }) (g := Ppu.withStatus a b c) (fun _ => rfl) _ _

/-- A PPU cycle with rendering enabled on a render line is the renderer's, but for the status bits and the position. -/
theorem Ppu.next_enabled (l : Launch) (n : Nat) {p : Ppu} (hl : renderLine p.scanline = true)
    (he : p.renderingEnabled = true) : ∃ a b c, p.next l n = { p.renderEnabled l.mirroring with
      vblank := a, sprite0Hit := b, spriteOverflow := c
      scanline := p.advanced.scanline, cycle := p.advanced.cycle } := by
  have hs : (p.renderEnabled l.mirroring).scanline = p.scanline := (congrArg Ppu.scanline (Ppu.renderEnabled_still _ p) :)
  have hc : (p.renderEnabled l.mirroring).cycle = p.cycle := (congrArg Ppu.cycle (Ppu.renderEnabled_still _ p) :)
  have e : p.afterEvents.renderEnabled l.mirroring = _ := Ppu.renderEnabled_withStatus l.mirroring p _ _ _
  unfold Ppu.next Ppu.rendered
  rw [if_pos (show renderLine p.afterEvents.scanline = true from hl),
    if_pos (show p.afterEvents.renderingEnabled = true from he), e]
  generalize p.renderEnabled l.mirroring = q at hs hc
  unfold Ppu.advanced Ppu.withStatus
  split
  · exact ⟨p.afterEvents.vblank, p.afterEvents.sprite0Hit || (Config.spriteDraw n).hit,
      p.afterEvents.spriteOverflow || (Config.spriteDraw n).overflow, by simp only [hs, hc]; rfl⟩
  · exact ⟨p.afterEvents.vblank, p.afterEvents.sprite0Hit, p.afterEvents.spriteOverflow, by simp only [hs, hc]; rfl⟩

/-- A PPU cycle off the render lines, or with rendering disabled, stores at most a pixel beside the status bits and the
position. -/
theorem Ppu.next_disabled (l : Launch) (n : Nat) {p : Ppu} (h : (renderLine p.scanline && p.renderingEnabled) = false) :
    ∃ fb, p.next l n = { p.afterEvents with fb := fb, scanline := p.advanced.scanline, cycle := p.advanced.cycle } := by
  unfold Ppu.next Ppu.rendered
  split
  · rename_i hl
    rw [show p.afterEvents.scanline = p.scanline from rfl] at hl
    rw [hl, Bool.true_and] at h
    rw [if_neg (show ¬ p.afterEvents.renderingEnabled = true from ne_true_of_eq_false h)]
    unfold whenever
    split
    · exact ⟨_, rfl⟩
    · exact ⟨p.fb, rfl⟩
  · exact ⟨p.fb, rfl⟩

/-! ## The canonical forms -/

theorem Ppu.advanced_wf {p : Ppu} (h : p.wf = true) : p.advanced.wf = true := by
  rw [Ppu.wf_iff] at h ⊢
  obtain ⟨h1, h2, h3⟩ := h
  refine ⟨?_, ?_, h3⟩
  · show (if p.cycle = 340 then (if p.scanline = 261 then 0 else p.scanline + 1) else p.scanline) ≤ 261
    split
    · split <;> omega
    · exact h1
  · show (if p.cycle = 340 then 0 else p.cycle + 1) ≤ 340
    split <;> omega

theorem visiblePixel_bounds {s c : Nat} (h : visiblePixel s c = true) : s ≤ 239 ∧ 1 ≤ c ∧ c ≤ 256 := by
  simp only [visiblePixel, Bool.and_eq_true, decide_eq_true_eq] at h
  exact ⟨h.1.1, h.1.2, h.2⟩

theorem Ppu.renderEnabled_wf {m : Mirroring} {p : Ppu} (h : p.wf = true) : (p.renderEnabled m).wf = true := by
  have hfb : Mem.wf 61440 (p.renderEnabled m).fb = true := by
    rw [Ppu.renderEnabled_fb]
    unfold whenever
    split
    · rename_i hv
      obtain ⟨h1, -, h2⟩ := visiblePixel_bounds hv
      exact ((Ppu.wf_iff _).mp (Ppu.emit_wf (c := colour m p p.pixelPalette p.pixel) h h1 h2)).2.2.2.2.2.2.2
    · exact ((Ppu.wf_iff _).mp h).2.2.2.2.2.2.2
  obtain ⟨_, _, _, _, _, _, _, _, _, _, _, _, e⟩ := Ppu.renderEnabled_frame m p
  rw [e] at hfb ⊢
  rw [Ppu.wf_iff] at h ⊢
  exact ⟨h.1, h.2.1, h.2.2.1, h.2.2.2.1, h.2.2.2.2.1, h.2.2.2.2.2.1, h.2.2.2.2.2.2.1, hfb⟩

/-- One PPU cycle keeps the position in range and every canonical form (R46, R281). -/
theorem Ppu.next_wf {l : Launch} {n : Nat} {p : Ppu} (h : p.wf = true) : (p.next l n).wf = true := by
  refine Ppu.advanced_wf ?_
  have h' : p.afterEvents.wf = true := h
  unfold Ppu.rendered
  split
  · split
    · split
      · exact Ppu.renderEnabled_wf h'
      · exact Ppu.renderEnabled_wf h'
    · unfold whenever
      split
      · rename_i hv
        obtain ⟨h1, -, h2⟩ := visiblePixel_bounds hv
        exact Ppu.emit_wf h' h1 h2
      · exact h'
  · exact h'

theorem ppuCycle_wf {s : State} (h : s.wf = true) : (ppuCycle s).wf = true := by
  rw [State.wf_iff] at h ⊢
  simp only [ppuCycle_p, ppuCycle_fault, ppuCycle_ram, ppuCycle_ext, ppuCycle_ppu]
  exact ⟨h.1, h.2.1, h.2.2.1, h.2.2.2.1, h.2.2.2.2.1, Ppu.next_wf h.2.2.2.2.2⟩

end Sys2Proof.Machine
end

