-- ==== Sys2Proof/Laws/Step.lean ====
section
/-!
SUPPORT. What one step is in each of its three cases (owed cycles, a pending NMI, an instruction), what its end does, and what
any number of PPU cycles leaves alone.
-/
namespace Sys2Proof.Machine

/-! ## Any number of PPU cycles -/

theorem ppuCycles3_eq (s : State) : ppuCycles3 s = ppuCycle^[3] s := by
  unfold ppuCycles3
  rw [Function.iterate_succ_apply, Function.iterate_succ_apply, Function.iterate_succ_apply, Function.iterate_zero_apply]

theorem iterate_fault (n : Nat) : ∀ s : State, (ppuCycle^[n] s).fault = s.fault := by
  induction n with
  | zero => exact fun _ => rfl
  | succ n ih => intro s; rw [Function.iterate_succ_apply, ih, ppuCycle_fault]

theorem iterate_launch (n : Nat) : ∀ s : State, (ppuCycle^[n] s).launch = s.launch := by
  induction n with
  | zero => exact fun _ => rfl
  | succ n ih => intro s; rw [Function.iterate_succ_apply, ih, ppuCycle_launch]

theorem iterate_cyclesRemaining (n : Nat) : ∀ s : State, (ppuCycle^[n] s).cyclesRemaining = s.cyclesRemaining := by
  induction n with
  | zero => exact fun _ => rfl
  | succ n ih => intro s; rw [Function.iterate_succ_apply, ih, ppuCycle_cyclesRemaining]

theorem iterate_wf (n : Nat) : ∀ s : State, s.wf = true → (ppuCycle^[n] s).wf = true := by
  induction n with
  | zero => exact fun _ h => h
  | succ n ih => intro s h; rw [Function.iterate_succ_apply]; exact ih _ (ppuCycle_wf h)

/-- PPU cycles commute with the count of owed cycles. -/
theorem iterate_with_cyclesRemaining (n m : Nat) : ∀ s : State,
    ppuCycle^[n] { s with cyclesRemaining := m } = { ppuCycle^[n] s with cyclesRemaining := m } := by
  induction n with
  | zero => exact fun _ => rfl
  | succ n ih =>
    intro s
    rw [Function.iterate_succ_apply, Function.iterate_succ_apply, ppuCycle_with_cyclesRemaining, ih]

/-! ## The end of a step -/

theorem endStep_none {s : State} (h : s.fault = none) :
    endStep s = ppuCycle^[3] { s with cyclesRemaining := s.cyclesRemaining - 1 } := by
  unfold endStep
  simp only [h, ppuCycles3_eq, countDown]

theorem endStep_some {s : State} {f : Fault} (h : s.fault = some f) : endStep s = s := by
  unfold endStep
  rw [h]

/-- What both ends of a step give. -/
theorem endStep_cases {P : State → Prop} (s : State) (h : P s)
    (h' : P (ppuCycle^[3] { s with cyclesRemaining := s.cyclesRemaining - 1 })) : P (endStep s) := by
  cases hf : s.fault with
  | none => rw [endStep_none hf]; exact h'
  | some f => rw [endStep_some hf]; exact h

/-! ## The step -/

/-- An instruction boundary in its parts (R322). -/
theorem atBoundary_iff (s : State) :
    s.atBoundary = true ↔ s.fault = none ∧ s.cyclesRemaining = 0 ∧ s.nmiPending = false := by
  simp only [State.atBoundary, Bool.and_eq_true, Option.isNone_iff_eq_none, beq_iff_eq, Bool.not_eq_true', and_assoc]

/-- A step from a state without a fault, by what it begins (R320, R321). -/
theorem step_of_begin {s t : State} (hf : s.fault = none) (h : beginCycle s = .next t) : step s = .next (endStep t) := by
  unfold step machineStep
  rw [hf]
  simp only [h]

/-- What a cycle-step begins at an instruction boundary (R321). -/
theorem beginCycle_boundary {s : State} (h : s.atBoundary = true) : beginCycle s = instructionStep s := by
  obtain ⟨-, hc, hn⟩ := (atBoundary_iff s).mp h
  unfold beginCycle
  rw [if_pos hc, if_neg (by rw [hn]; exact Bool.false_ne_true)]

/-- What a cycle-step begins while cycles are owed (R321). -/
theorem beginCycle_owed {s : State} (h : 0 < s.cyclesRemaining) : beginCycle s = .next s := by
  unfold beginCycle
  rw [if_neg (by omega)]

/-- What a cycle-step begins with an NMI pending at a boundary (R321, R336). -/
theorem beginCycle_nmi {s : State} (h : s.cyclesRemaining = 0) (hn : s.nmiPending = true) : beginCycle s = nmiStep s := by
  unfold beginCycle
  rw [if_pos h, if_pos hn]

/-- The two things a step can begin beside the owed cycles, and that it always gets somewhere: a step from a state without a
fault is the end of a state that the instruction, the NMI entry or nothing led to. -/
theorem step_cases {s t : State} (h : step s = .next t) : s.fault = none ∧ ∃ u, t = endStep u ∧
    ((0 < s.cyclesRemaining ∧ u = s) ∨
      (s.cyclesRemaining = 0 ∧ s.nmiPending = true ∧ nmiStep s = .next u) ∨
      (s.cyclesRemaining = 0 ∧ s.nmiPending = false ∧ instructionStep s = .next u)) := by
  unfold step machineStep at h
  split at h
  · cases h
  · rename_i hf
    refine ⟨hf, ?_⟩
    split at h
    · rename_i u hu
      cases h
      refine ⟨u, rfl, ?_⟩
      unfold beginCycle at hu
      split at hu
      · rename_i hc
        split at hu
        · rename_i hn; exact .inr (.inl ⟨hc, hn, hu⟩)
        · rename_i hn; exact .inr (.inr ⟨hc, by simpa using hn, hu⟩)
      · rename_i hc
        cases hu
        exact .inl ⟨by omega, rfl⟩
    · cases h
    · cases h

/-- A run of one step more. -/
theorem core_run_succ (M : Host.Core) (n : Nat) (s : M.State) : M.run (n + 1) s =
    match M.step s with
    | .next t => M.run n t
    | .fault f => .fault f
    | .refused r => .refused r := rfl

/-- A run whose first step answers a next state goes on from there. -/
theorem run_succ {s t : State} (n : Nat) (h : step s = .next t) :
    Sys2Proof.core.run (n + 1) s = Sys2Proof.core.run n t := by
  refine (core_run_succ Sys2Proof.core n s).trans ?_
  rw [show Sys2Proof.core.step s = .next t from h]

/-! ## Fetching keeps what reading keeps -/

theorem Kept.fetchByte {P : State → Prop} (K : Kept P) {s : State} (h : P s) : P (fetchByte s).left :=
  Res.left_bind (K.read _ _ h) fun _ _ h => K.setPc _ h

theorem Kept.fetch {P : State → Prop} (K : Kept P) {s : State} (h : P s) : P (fetch s).left := by
  refine Res.left_bind (K.fetchByte h) fun op s' h' => ?_
  split
  · exact h'
  · exact h'
  · exact Res.left_bind (K.read _ _ (K.setPc _ h')) fun _ _ h => h
  · exact Res.left_bind (K.fetchByte h') fun _ _ h => h
  · exact Res.left_bind (K.fetchByte h') fun _ _ h => Res.left_bind (K.fetchByte h) fun _ _ h => h

theorem fetchByte_storable (s : State) : (fetchByte s).storable :=
  Res.storable_bind (memRead_storable _ _) fun _ _ => trivial

theorem fetch_storable (s : State) : (fetch s).storable := by
  refine Res.storable_bind (fetchByte_storable s) fun op s' => ?_
  split
  · exact rfl
  · trivial
  · exact Res.storable_bind (memRead_storable _ _) fun _ _ => trivial
  · exact Res.storable_bind (fetchByte_storable _) fun _ _ => trivial
  · exact Res.storable_bind (fetchByte_storable _) fun _ _ => Res.storable_bind (fetchByte_storable _) fun _ _ => trivial

/-- An instruction-step keeps what its parts keep. -/
theorem Kept.instructionStep {P : State → Prop} (K : Kept P) {s t : State} (h : P s)
    (ht : Machine.instructionStep s = .next t) : P t := by
  have hk := K.fetch h
  have hs := fetch_storable s
  unfold Machine.instructionStep at ht
  split at ht
  · rename_i i u hu
    rw [hu] at hk
    exact K.exec hk ht
  · rename_i f u hu
    rw [hu] at hk hs
    cases ht
    exact K.fault u f hs hk

/-- An NMI entry keeps what its parts keep, but for the pending NMI, which it clears. -/
theorem Kept.nmiStep {P : State → Prop} (K : Kept P) (hn : ∀ s : State, P s → P { s with nmiPending := false })
    {s t : State} (h : P s) (ht : Machine.nmiStep s = .next t) : P t := by
  refine K.outcome ?_ ?_ ht
  · exact Res.storable_bind (Res.storable_bind (enterTrap_storable _ _ _ _) fun _ _ => trivial) fun _ _ => trivial
  · exact Res.left_bind (Res.left_bind (K.enterTrap _ _ _ h) fun _ s h => hn s h) fun _ s h =>
      K.regs s.a s.x s.y s.sp s.pc _ h

end Sys2Proof.Machine
end

