-- ==== Sys2Proof/Tests/Slice0.lean ====
section
/-!
SUPPORT. The model's own tests: the words of spec/30_encoding.md (R111, R113) decode to their instructions, the checks of
WellFormed refuse ill-formed lines, small one-step tests whose expected results are those of spec/95_test_vectors.md, and for
every statement with hypotheses a concrete state and operands that meet them.
-/
namespace Sys2Proof.Tests

open Sys2Proof Sys2Proof.Machine

/-! ## Every constructor's word, written out from R113 (operands 0x34 and 0x1234) -/

theorem test_decode_load_store_transfer_1 :
  decode [0xA9, 0x34] = .ok (.ldaImm 0x34, []) ∧ decode [0xA5, 0x34] = .ok (.ldaZp 0x34, []) ∧
  decode [0xB5, 0x34] = .ok (.ldaZpx 0x34, []) ∧ decode [0xAD, 0x34, 0x12] = .ok (.ldaAbs 0x1234, []) ∧
  decode [0xBD, 0x34, 0x12] = .ok (.ldaAbsx 0x1234, []) ∧ decode [0xB9, 0x34, 0x12] = .ok (.ldaAbsy 0x1234, []) ∧
  decode [0xA1, 0x34] = .ok (.ldaIndx 0x34, []) ∧ decode [0xB1, 0x34] = .ok (.ldaIndy 0x34, []) ∧
  decode [0xA2, 0x34] = .ok (.ldxImm 0x34, []) ∧ decode [0xA6, 0x34] = .ok (.ldxZp 0x34, []) ∧
  decode [0xB6, 0x34] = .ok (.ldxZpy 0x34, []) ∧ decode [0xAE, 0x34, 0x12] = .ok (.ldxAbs 0x1234, []) ∧
  decode [0xBE, 0x34, 0x12] = .ok (.ldxAbsy 0x1234, []) ∧ decode [0xA0, 0x34] = .ok (.ldyImm 0x34, []) ∧
  decode [0xA4, 0x34] = .ok (.ldyZp 0x34, []) ∧ decode [0xB4, 0x34] = .ok (.ldyZpx 0x34, []) ∧
  decode [0xAC, 0x34, 0x12] = .ok (.ldyAbs 0x1234, []) ∧ decode [0xBC, 0x34, 0x12] = .ok (.ldyAbsx 0x1234, []) ∧
  decode [0x85, 0x34] = .ok (.staZp 0x34, []) ∧ decode [0x95, 0x34] = .ok (.staZpx 0x34, []) ∧
  decode [0x8D, 0x34, 0x12] = .ok (.staAbs 0x1234, []) ∧ decode [0x9D, 0x34, 0x12] = .ok (.staAbsx 0x1234, []) ∧
  decode [0x99, 0x34, 0x12] = .ok (.staAbsy 0x1234, []) ∧ decode [0x81, 0x34] = .ok (.staIndx 0x34, []) ∧
  decode [0x91, 0x34] = .ok (.staIndy 0x34, []) ∧ decode [0x86, 0x34] = .ok (.stxZp 0x34, []) :=
  ⟨rfl, rfl, rfl, rfl, rfl, rfl, rfl, rfl, rfl, rfl, rfl, rfl, rfl, rfl, rfl, rfl, rfl, rfl, rfl, rfl, rfl, rfl, rfl,
   rfl, rfl, rfl⟩

theorem test_decode_load_store_transfer_2 :
  decode [0x96, 0x34] = .ok (.stxZpy 0x34, []) ∧ decode [0x8E, 0x34, 0x12] = .ok (.stxAbs 0x1234, []) ∧
  decode [0x84, 0x34] = .ok (.styZp 0x34, []) ∧ decode [0x94, 0x34] = .ok (.styZpx 0x34, []) ∧
  decode [0x8C, 0x34, 0x12] = .ok (.styAbs 0x1234, []) ∧ decode [0xAA] = .ok (.tax, []) ∧
  decode [0xA8] = .ok (.tay, []) ∧ decode [0x8A] = .ok (.txa, []) ∧ decode [0x98] = .ok (.tya, []) ∧
  decode [0xBA] = .ok (.tsx, []) ∧ decode [0x9A] = .ok (.txs, []) :=
  ⟨rfl, rfl, rfl, rfl, rfl, rfl, rfl, rfl, rfl, rfl, rfl⟩

theorem test_decode_stack :
  decode [0x48] = .ok (.pha, []) ∧ decode [0x08] = .ok (.php, []) ∧ decode [0x68] = .ok (.pla, []) ∧
  decode [0x28] = .ok (.plp, []) :=
  ⟨rfl, rfl, rfl, rfl⟩

theorem test_decode_logic_arith_1 :
  decode [0x29, 0x34] = .ok (.andImm 0x34, []) ∧ decode [0x25, 0x34] = .ok (.andZp 0x34, []) ∧
  decode [0x35, 0x34] = .ok (.andZpx 0x34, []) ∧ decode [0x2D, 0x34, 0x12] = .ok (.andAbs 0x1234, []) ∧
  decode [0x3D, 0x34, 0x12] = .ok (.andAbsx 0x1234, []) ∧ decode [0x39, 0x34, 0x12] = .ok (.andAbsy 0x1234, []) ∧
  decode [0x21, 0x34] = .ok (.andIndx 0x34, []) ∧ decode [0x31, 0x34] = .ok (.andIndy 0x34, []) ∧
  decode [0x09, 0x34] = .ok (.oraImm 0x34, []) ∧ decode [0x05, 0x34] = .ok (.oraZp 0x34, []) ∧
  decode [0x15, 0x34] = .ok (.oraZpx 0x34, []) ∧ decode [0x0D, 0x34, 0x12] = .ok (.oraAbs 0x1234, []) ∧
  decode [0x1D, 0x34, 0x12] = .ok (.oraAbsx 0x1234, []) ∧ decode [0x19, 0x34, 0x12] = .ok (.oraAbsy 0x1234, []) ∧
  decode [0x01, 0x34] = .ok (.oraIndx 0x34, []) ∧ decode [0x11, 0x34] = .ok (.oraIndy 0x34, []) ∧
  decode [0x49, 0x34] = .ok (.eorImm 0x34, []) ∧ decode [0x45, 0x34] = .ok (.eorZp 0x34, []) ∧
  decode [0x55, 0x34] = .ok (.eorZpx 0x34, []) ∧ decode [0x4D, 0x34, 0x12] = .ok (.eorAbs 0x1234, []) ∧
  decode [0x5D, 0x34, 0x12] = .ok (.eorAbsx 0x1234, []) ∧ decode [0x59, 0x34, 0x12] = .ok (.eorAbsy 0x1234, []) ∧
  decode [0x41, 0x34] = .ok (.eorIndx 0x34, []) ∧ decode [0x51, 0x34] = .ok (.eorIndy 0x34, []) ∧
  decode [0x24, 0x34] = .ok (.bitZp 0x34, []) ∧ decode [0x2C, 0x34, 0x12] = .ok (.bitAbs 0x1234, []) :=
  ⟨rfl, rfl, rfl, rfl, rfl, rfl, rfl, rfl, rfl, rfl, rfl, rfl, rfl, rfl, rfl, rfl, rfl, rfl, rfl, rfl, rfl, rfl, rfl,
   rfl, rfl, rfl⟩

theorem test_decode_logic_arith_2 :
  decode [0x69, 0x34] = .ok (.adcImm 0x34, []) ∧ decode [0x65, 0x34] = .ok (.adcZp 0x34, []) ∧
  decode [0x75, 0x34] = .ok (.adcZpx 0x34, []) ∧ decode [0x6D, 0x34, 0x12] = .ok (.adcAbs 0x1234, []) ∧
  decode [0x7D, 0x34, 0x12] = .ok (.adcAbsx 0x1234, []) ∧ decode [0x79, 0x34, 0x12] = .ok (.adcAbsy 0x1234, []) ∧
  decode [0x61, 0x34] = .ok (.adcIndx 0x34, []) ∧ decode [0x71, 0x34] = .ok (.adcIndy 0x34, []) ∧
  decode [0xE9, 0x34] = .ok (.sbcImm 0x34, []) ∧ decode [0xE5, 0x34] = .ok (.sbcZp 0x34, []) ∧
  decode [0xF5, 0x34] = .ok (.sbcZpx 0x34, []) ∧ decode [0xED, 0x34, 0x12] = .ok (.sbcAbs 0x1234, []) ∧
  decode [0xFD, 0x34, 0x12] = .ok (.sbcAbsx 0x1234, []) ∧ decode [0xF9, 0x34, 0x12] = .ok (.sbcAbsy 0x1234, []) ∧
  decode [0xE1, 0x34] = .ok (.sbcIndx 0x34, []) ∧ decode [0xF1, 0x34] = .ok (.sbcIndy 0x34, []) ∧
  decode [0xC9, 0x34] = .ok (.cmpImm 0x34, []) ∧ decode [0xC5, 0x34] = .ok (.cmpZp 0x34, []) ∧
  decode [0xD5, 0x34] = .ok (.cmpZpx 0x34, []) ∧ decode [0xCD, 0x34, 0x12] = .ok (.cmpAbs 0x1234, []) ∧
  decode [0xDD, 0x34, 0x12] = .ok (.cmpAbsx 0x1234, []) ∧ decode [0xD9, 0x34, 0x12] = .ok (.cmpAbsy 0x1234, []) ∧
  decode [0xC1, 0x34] = .ok (.cmpIndx 0x34, []) ∧ decode [0xD1, 0x34] = .ok (.cmpIndy 0x34, []) ∧
  decode [0xE0, 0x34] = .ok (.cpxImm 0x34, []) ∧ decode [0xE4, 0x34] = .ok (.cpxZp 0x34, []) :=
  ⟨rfl, rfl, rfl, rfl, rfl, rfl, rfl, rfl, rfl, rfl, rfl, rfl, rfl, rfl, rfl, rfl, rfl, rfl, rfl, rfl, rfl, rfl, rfl,
   rfl, rfl, rfl⟩

theorem test_decode_logic_arith_3 :
  decode [0xEC, 0x34, 0x12] = .ok (.cpxAbs 0x1234, []) ∧ decode [0xC0, 0x34] = .ok (.cpyImm 0x34, []) ∧
  decode [0xC4, 0x34] = .ok (.cpyZp 0x34, []) ∧ decode [0xCC, 0x34, 0x12] = .ok (.cpyAbs 0x1234, []) :=
  ⟨rfl, rfl, rfl, rfl⟩

theorem test_decode_incdec_shift_1 :
  decode [0xE6, 0x34] = .ok (.incZp 0x34, []) ∧ decode [0xF6, 0x34] = .ok (.incZpx 0x34, []) ∧
  decode [0xEE, 0x34, 0x12] = .ok (.incAbs 0x1234, []) ∧ decode [0xFE, 0x34, 0x12] = .ok (.incAbsx 0x1234, []) ∧
  decode [0xE8] = .ok (.inx, []) ∧ decode [0xC8] = .ok (.iny, []) ∧ decode [0xC6, 0x34] = .ok (.decZp 0x34, []) ∧
  decode [0xD6, 0x34] = .ok (.decZpx 0x34, []) ∧ decode [0xCE, 0x34, 0x12] = .ok (.decAbs 0x1234, []) ∧
  decode [0xDE, 0x34, 0x12] = .ok (.decAbsx 0x1234, []) ∧ decode [0xCA] = .ok (.dex, []) ∧
  decode [0x88] = .ok (.dey, []) ∧ decode [0x0A] = .ok (.aslAcc, []) ∧ decode [0x06, 0x34] = .ok (.aslZp 0x34, []) ∧
  decode [0x16, 0x34] = .ok (.aslZpx 0x34, []) ∧ decode [0x0E, 0x34, 0x12] = .ok (.aslAbs 0x1234, []) ∧
  decode [0x1E, 0x34, 0x12] = .ok (.aslAbsx 0x1234, []) ∧ decode [0x4A] = .ok (.lsrAcc, []) ∧
  decode [0x46, 0x34] = .ok (.lsrZp 0x34, []) ∧ decode [0x56, 0x34] = .ok (.lsrZpx 0x34, []) ∧
  decode [0x4E, 0x34, 0x12] = .ok (.lsrAbs 0x1234, []) ∧ decode [0x5E, 0x34, 0x12] = .ok (.lsrAbsx 0x1234, []) ∧
  decode [0x2A] = .ok (.rolAcc, []) ∧ decode [0x26, 0x34] = .ok (.rolZp 0x34, []) ∧
  decode [0x36, 0x34] = .ok (.rolZpx 0x34, []) ∧ decode [0x2E, 0x34, 0x12] = .ok (.rolAbs 0x1234, []) :=
  ⟨rfl, rfl, rfl, rfl, rfl, rfl, rfl, rfl, rfl, rfl, rfl, rfl, rfl, rfl, rfl, rfl, rfl, rfl, rfl, rfl, rfl, rfl, rfl,
   rfl, rfl, rfl⟩

theorem test_decode_incdec_shift_2 :
  decode [0x3E, 0x34, 0x12] = .ok (.rolAbsx 0x1234, []) ∧ decode [0x6A] = .ok (.rorAcc, []) ∧
  decode [0x66, 0x34] = .ok (.rorZp 0x34, []) ∧ decode [0x76, 0x34] = .ok (.rorZpx 0x34, []) ∧
  decode [0x6E, 0x34, 0x12] = .ok (.rorAbs 0x1234, []) ∧ decode [0x7E, 0x34, 0x12] = .ok (.rorAbsx 0x1234, []) :=
  ⟨rfl, rfl, rfl, rfl, rfl, rfl⟩

theorem test_decode_control :
  decode [0x4C, 0x34, 0x12] = .ok (.jmpAbs 0x1234, []) ∧ decode [0x6C, 0x34, 0x12] = .ok (.jmpInd 0x1234, []) ∧
  decode [0x20, 0x34, 0x12] = .ok (.jsr 0x1234, []) ∧ decode [0x60] = .ok (.rts, []) ∧ decode [0x00] = .ok (.brk, []) ∧
  decode [0x40] = .ok (.rti, []) ∧ decode [0x90, 0x34] = .ok (.bcc 0x34, []) ∧
  decode [0xB0, 0x34] = .ok (.bcs 0x34, []) ∧ decode [0xF0, 0x34] = .ok (.beq 0x34, []) ∧
  decode [0xD0, 0x34] = .ok (.bne 0x34, []) ∧ decode [0x30, 0x34] = .ok (.bmi 0x34, []) ∧
  decode [0x10, 0x34] = .ok (.bpl 0x34, []) ∧ decode [0x50, 0x34] = .ok (.bvc 0x34, []) ∧
  decode [0x70, 0x34] = .ok (.bvs 0x34, []) :=
  ⟨rfl, rfl, rfl, rfl, rfl, rfl, rfl, rfl, rfl, rfl, rfl, rfl, rfl, rfl⟩

theorem test_decode_flags_nop :
  decode [0x18] = .ok (.clc, []) ∧ decode [0x38] = .ok (.sec, []) ∧ decode [0x58] = .ok (.cli, []) ∧
  decode [0x78] = .ok (.sei, []) ∧ decode [0xB8] = .ok (.clv, []) ∧ decode [0xD8] = .ok (.cld, []) ∧
  decode [0xF8] = .ok (.sed, []) ∧ decode [0xEA] = .ok (.nop, []) :=
  ⟨rfl, rfl, rfl, rfl, rfl, rfl, rfl, rfl⟩

/-! ## The checks of WellFormed refuse ill-formed lines (R110, R116) -/

/-- STA has no immediate mode (R112). -/
theorem test_wellFormed_refuses_mode : (AsmLine.mk 0x8000 .sta (.imm 0x10)).wellFormed = false := by decide

/-- STX has no zero-page-X mode, LDX has zero-page-Y (R113). -/
theorem test_wellFormed_refuses_index : (AsmLine.mk 0x8000 .stx (.zpx 0x10)).wellFormed = false ∧
    (AsmLine.mk 0x8000 .ldx (.zpy 0x10)).wellFormed = true := by decide

/-- A branch label 128 after the next instruction is out of reach, one 127 after it is in reach (R116). -/
theorem test_wellFormed_refuses_label_above : (AsmLine.mk 0x8000 .bne (.label 0x8082)).wellFormed = false ∧
    (AsmLine.mk 0x8000 .bne (.label 0x8081)).wellFormed = true := by decide

/-- A branch label 129 before the next instruction is out of reach, one 128 before it is in reach (R116). -/
theorem test_wellFormed_refuses_label_below : (AsmLine.mk 0x8000 .bne (.label 0x7F81)).wellFormed = false ∧
    (AsmLine.mk 0x8000 .bne (.label 0x7F82)).wellFormed = true := by decide

/-- R116: the bytes of a line: a label becomes its distance, an operation without the mode has none. -/
theorem test_assemble : (AsmLine.mk 0x8010 .bne (.label 0x800E)).assemble = some [0xD0, 0xFC] ∧
    (AsmLine.mk 0x8000 .lda (.absx 0x12F0)).assemble = some [0xBD, 0xF0, 0x12] ∧
    (AsmLine.mk 0x8000 .jmp (.imm 0x10)).assemble = none := by decide

/-! ## One step of one instruction (spec/95_test_vectors.md, section 2) -/

/-- Bytes poked one after another. -/
def poked (mem : List (Word × Byte)) (s : State) : State :=
  match mem with
  | [] => s
  | (a, d) :: rest => poked rest (pokeByte a d s)

/-- The post-reset state of spec/95_test_vectors.md, with an instruction's bytes at `pc`. -/
def placed (pc : Word) (bytes : List Byte) (a x y sp p : Byte) (mem : List (Word × Byte)) : State :=
  poked mem (pokeBytes pc bytes
    { State.reset with pc := pc, a := a, x := x, y := y, sp := sp, p := Flags.ofByte p, cyclesRemaining := 0 })

/-- What one step shows: the register window, the cost of the instruction, and some bytes of storage. -/
def seen (s : State) (addresses : List Word) : Option (RegisterWindow × Nat × List Byte) :=
  match step s with
  | .next t => some (t.registerWindow, t.cyclesRemaining + 1, addresses.map t.byteAt)
  | .fault _ | .refused _ => none

theorem test_ldx : seen (placed 0x8000 [0xB6, 0xFF] 0x00 0x00 0x02 0xFD 0x24 [(0x0001, 0x44)]) [] =
    some (⟨0x8002, 0x00, 0x44, 0x02, 0x24, 0xFD⟩, 4, []) := by decide

theorem test_lda : seen (placed 0x8000 [0xBD, 0xF0, 0x12] 0x00 0x20 0x00 0xFD 0x24 [(0x1310, 0x77)]) [] =
    some (⟨0x8003, 0x77, 0x20, 0x00, 0x24, 0xFD⟩, 5, []) := by decide

theorem test_lda_2 : seen (placed 0x8000 [0xA1, 0xFE] 0x00 0x01 0x00 0xFD 0x24 [(0x00FF, 0x00), (0x0000, 0x04), (0x0400, 0x5A)]) [] =
    some (⟨0x8002, 0x5A, 0x01, 0x00, 0x24, 0xFD⟩, 6, []) := by decide

theorem test_ldy : seen (placed 0x8000 [0xA0, 0xFF] 0x00 0x00 0x00 0xFD 0x24 []) [] =
    some (⟨0x8002, 0x00, 0x00, 0xFF, 0xA4, 0xFD⟩, 2, []) := by decide

theorem test_sta : seen (placed 0x8000 [0x95, 0xFF] 0xAB 0x02 0x00 0xFD 0x24 []) [0x0001, 0x0101] =
    some (⟨0x8002, 0xAB, 0x02, 0x00, 0x24, 0xFD⟩, 4, [0xAB, 0x00]) := by decide

theorem test_sta_2 : seen (placed 0x8000 [0x8D, 0x00, 0x18] 0x5A 0x00 0x00 0xFD 0x24 []) [0x0000, 0x0800, 0x1000, 0x1800] =
    some (⟨0x8003, 0x5A, 0x00, 0x00, 0x24, 0xFD⟩, 4, [0x5A, 0x5A, 0x5A, 0x5A]) := by decide

theorem test_stx : seen (placed 0x8000 [0x96, 0x10] 0x00 0x77 0x01 0xFD 0x24 []) [0x0011] =
    some (⟨0x8002, 0x00, 0x77, 0x01, 0x24, 0xFD⟩, 4, [0x77]) := by decide

theorem test_sty : seen (placed 0x8000 [0x8C, 0x00, 0x18] 0x00 0x00 0x21 0xFD 0x24 []) [0x0000, 0x0800] =
    some (⟨0x8003, 0x00, 0x00, 0x21, 0x24, 0xFD⟩, 4, [0x21, 0x21]) := by decide

theorem test_tax : seen (placed 0x8000 [0xAA] 0x80 0x00 0x00 0xFD 0x24 []) [] =
    some (⟨0x8001, 0x80, 0x80, 0x00, 0xA4, 0xFD⟩, 2, []) := by decide

theorem test_tay : seen (placed 0x8000 [0xA8] 0x00 0x00 0x05 0xFD 0x24 []) [] =
    some (⟨0x8001, 0x00, 0x00, 0x00, 0x26, 0xFD⟩, 2, []) := by decide

theorem test_txa : seen (placed 0x8000 [0x8A] 0x00 0x7F 0x00 0xFD 0x24 []) [] =
    some (⟨0x8001, 0x7F, 0x7F, 0x00, 0x24, 0xFD⟩, 2, []) := by decide

theorem test_tya : seen (placed 0x8000 [0x98] 0x00 0x00 0xFF 0xFD 0x24 []) [] =
    some (⟨0x8001, 0xFF, 0x00, 0xFF, 0xA4, 0xFD⟩, 2, []) := by decide

theorem test_tsx : seen (placed 0x8000 [0xBA] 0x00 0x00 0x00 0xFD 0x24 []) [] =
    some (⟨0x8001, 0x00, 0xFD, 0x00, 0xA4, 0xFD⟩, 2, []) := by decide

theorem test_txs : seen (placed 0x8000 [0x9A] 0x00 0x00 0x00 0xFD 0xA4 []) [] =
    some (⟨0x8001, 0x00, 0x00, 0x00, 0xA4, 0x00⟩, 2, []) := by decide

theorem test_pha : seen (placed 0x8000 [0x48] 0x42 0x00 0x00 0x00 0x24 []) [0x0100] =
    some (⟨0x8001, 0x42, 0x00, 0x00, 0x24, 0xFF⟩, 3, [0x42]) := by decide

theorem test_php : seen (placed 0x8000 [0x08] 0x00 0x00 0x00 0xFD 0xE7 []) [0x01FD] =
    some (⟨0x8001, 0x00, 0x00, 0x00, 0xE7, 0xFC⟩, 3, [0xF7]) := by decide

theorem test_pla : seen (placed 0x8000 [0x68] 0x01 0x00 0x00 0xFF 0x24 [(0x0100, 0x00)]) [] =
    some (⟨0x8001, 0x00, 0x00, 0x00, 0x26, 0x00⟩, 4, []) := by decide

theorem test_plp : seen (placed 0x8000 [0x28] 0x00 0x00 0x00 0xFC 0x24 [(0x01FD, 0xFF)]) [] =
    some (⟨0x8001, 0x00, 0x00, 0x00, 0xEF, 0xFD⟩, 4, []) := by decide

theorem test_and : seen (placed 0x8000 [0x29, 0x0F] 0xF0 0x00 0x00 0xFD 0x24 []) [] =
    some (⟨0x8002, 0x00, 0x00, 0x00, 0x26, 0xFD⟩, 2, []) := by decide

theorem test_ora : seen (placed 0x8000 [0x09, 0x80] 0x01 0x00 0x00 0xFD 0x24 []) [] =
    some (⟨0x8002, 0x81, 0x00, 0x00, 0xA4, 0xFD⟩, 2, []) := by decide

theorem test_eor : seen (placed 0x8000 [0x49, 0xFF] 0x0F 0x00 0x00 0xFD 0x24 []) [] =
    some (⟨0x8002, 0xF0, 0x00, 0x00, 0xA4, 0xFD⟩, 2, []) := by decide

theorem test_bit : seen (placed 0x8000 [0x2C, 0x00, 0x03] 0x40 0x00 0x00 0xFD 0xA5 [(0x0300, 0x40)]) [] =
    some (⟨0x8003, 0x40, 0x00, 0x00, 0x65, 0xFD⟩, 4, []) := by decide

theorem test_adc : seen (placed 0x8000 [0x69, 0x80] 0x80 0x00 0x00 0xFD 0x24 []) [] =
    some (⟨0x8002, 0x00, 0x00, 0x00, 0x67, 0xFD⟩, 2, []) := by decide

theorem test_adc_2 : seen (placed 0x8000 [0x69, 0xFF] 0xFF 0x00 0x00 0xFD 0x25 []) [] =
    some (⟨0x8002, 0xFF, 0x00, 0x00, 0xA5, 0xFD⟩, 2, []) := by decide

theorem test_sbc : seen (placed 0x8000 [0xE9, 0x01] 0x80 0x00 0x00 0xFD 0x25 []) [] =
    some (⟨0x8002, 0x7F, 0x00, 0x00, 0x65, 0xFD⟩, 2, []) := by decide

theorem test_sbc_2 : seen (placed 0x8000 [0xE9, 0x05] 0x05 0x00 0x00 0xFD 0x24 []) [] =
    some (⟨0x8002, 0xFF, 0x00, 0x00, 0xA4, 0xFD⟩, 2, []) := by decide

theorem test_cmp : seen (placed 0x8000 [0xC9, 0x00] 0x80 0x00 0x00 0xFD 0x64 []) [] =
    some (⟨0x8002, 0x80, 0x00, 0x00, 0xE5, 0xFD⟩, 2, []) := by decide

theorem test_cpx : seen (placed 0x8000 [0xE0, 0x05] 0x00 0x05 0x00 0xFD 0x24 []) [] =
    some (⟨0x8002, 0x00, 0x05, 0x00, 0x27, 0xFD⟩, 2, []) := by decide

theorem test_cpy : seen (placed 0x8000 [0xC4, 0x10] 0x00 0x00 0x00 0xFD 0x24 [(0x0010, 0xFF)]) [] =
    some (⟨0x8002, 0x00, 0x00, 0x00, 0x24, 0xFD⟩, 3, []) := by decide

theorem test_inc : seen (placed 0x8000 [0xE6, 0x10] 0x00 0x00 0x00 0xFD 0x24 [(0x0010, 0x7F)]) [0x0010] =
    some (⟨0x8002, 0x00, 0x00, 0x00, 0xA4, 0xFD⟩, 5, [0x80]) := by decide

theorem test_inc_2 : seen (placed 0x8000 [0xFE, 0xFF, 0x02] 0x00 0x01 0x00 0xFD 0x24 [(0x0300, 0x41)]) [0x0300] =
    some (⟨0x8003, 0x00, 0x01, 0x00, 0x24, 0xFD⟩, 7, [0x42]) := by decide

theorem test_dec : seen (placed 0x8000 [0xD6, 0xFF] 0x00 0x01 0x00 0xFD 0x24 [(0x0000, 0x80)]) [0x0000] =
    some (⟨0x8002, 0x00, 0x01, 0x00, 0x24, 0xFD⟩, 6, [0x7F]) := by decide

theorem test_inx : seen (placed 0x8000 [0xE8] 0x00 0xFF 0x00 0xFD 0x24 []) [] =
    some (⟨0x8001, 0x00, 0x00, 0x00, 0x26, 0xFD⟩, 2, []) := by decide

theorem test_iny : seen (placed 0x8000 [0xC8] 0x00 0x00 0x00 0xFD 0x24 []) [] =
    some (⟨0x8001, 0x00, 0x00, 0x01, 0x24, 0xFD⟩, 2, []) := by decide

theorem test_dex : seen (placed 0x8000 [0xCA] 0x00 0x00 0x00 0xFD 0x24 []) [] =
    some (⟨0x8001, 0x00, 0xFF, 0x00, 0xA4, 0xFD⟩, 2, []) := by decide

theorem test_dey : seen (placed 0x8000 [0x88] 0x00 0x00 0x01 0xFD 0x24 []) [] =
    some (⟨0x8001, 0x00, 0x00, 0x00, 0x26, 0xFD⟩, 2, []) := by decide

theorem test_asl : seen (placed 0x8000 [0x0A] 0x80 0x00 0x00 0xFD 0x24 []) [] =
    some (⟨0x8001, 0x00, 0x00, 0x00, 0x27, 0xFD⟩, 2, []) := by decide

theorem test_lsr : seen (placed 0x8000 [0x4A] 0x01 0x00 0x00 0xFD 0x24 []) [] =
    some (⟨0x8001, 0x00, 0x00, 0x00, 0x27, 0xFD⟩, 2, []) := by decide

theorem test_rol : seen (placed 0x8000 [0x2A] 0x80 0x00 0x00 0xFD 0x25 []) [] =
    some (⟨0x8001, 0x01, 0x00, 0x00, 0x25, 0xFD⟩, 2, []) := by decide

theorem test_ror : seen (placed 0x8000 [0x6A] 0x01 0x00 0x00 0xFD 0x25 []) [] =
    some (⟨0x8001, 0x80, 0x00, 0x00, 0xA5, 0xFD⟩, 2, []) := by decide

theorem test_rol_2 : seen (placed 0x8000 [0x26, 0x10] 0x00 0x00 0x00 0xFD 0x25 [(0x0010, 0x7F)]) [0x0010] =
    some (⟨0x8002, 0x00, 0x00, 0x00, 0xA4, 0xFD⟩, 5, [0xFF]) := by decide

theorem test_ror_2 : seen (placed 0x8000 [0x7E, 0x00, 0x03] 0x00 0x00 0x00 0xFD 0x25 [(0x0300, 0x02)]) [0x0300] =
    some (⟨0x8003, 0x00, 0x00, 0x00, 0xA4, 0xFD⟩, 7, [0x81]) := by decide

theorem test_asl_2 : seen (placed 0x8000 [0x1E, 0xFF, 0x02] 0x00 0x01 0x00 0xFD 0x24 [(0x0300, 0x55)]) [0x0300] =
    some (⟨0x8003, 0x00, 0x01, 0x00, 0xA4, 0xFD⟩, 7, [0xAA]) := by decide

theorem test_lsr_2 : seen (placed 0x8000 [0x56, 0x10] 0x00 0x01 0x00 0xFD 0x24 [(0x0011, 0x03)]) [0x0011] =
    some (⟨0x8002, 0x00, 0x01, 0x00, 0x25, 0xFD⟩, 6, [0x01]) := by decide

theorem test_jmp : seen (placed 0x8000 [0x4C, 0x34, 0x12] 0x00 0x00 0x00 0xFD 0x24 []) [] =
    some (⟨0x1234, 0x00, 0x00, 0x00, 0x24, 0xFD⟩, 3, []) := by decide

theorem test_jmp_2 : seen (placed 0x8000 [0x6C, 0xFF, 0x02] 0x00 0x00 0x00 0xFD 0x24 [(0x02FF, 0x34), (0x0200, 0x12), (0x0300, 0x99)]) [] =
    some (⟨0x1234, 0x00, 0x00, 0x00, 0x24, 0xFD⟩, 5, []) := by decide

theorem test_jsr : seen (placed 0x8000 [0x20, 0x00, 0x90] 0x00 0x00 0x00 0x00 0x24 []) [0x0100, 0x01FF] =
    some (⟨0x9000, 0x00, 0x00, 0x00, 0x24, 0xFE⟩, 6, [0x80, 0x02]) := by decide

theorem test_rts : seen (placed 0x8000 [0x60] 0x00 0x00 0x00 0xFE 0x24 [(0x01FF, 0x10), (0x0100, 0x90)]) [] =
    some (⟨0x9011, 0x00, 0x00, 0x00, 0x24, 0x00⟩, 6, []) := by decide

theorem test_brk : seen (placed 0x8000 [0x00, 0xEA] 0x00 0x00 0x00 0x01 0xE3 [(0xFFFE, 0x34), (0xFFFF, 0x12)]) [0x0101, 0x0100, 0x01FF] =
    some (⟨0x1234, 0x00, 0x00, 0x00, 0xE7, 0xFE⟩, 7, [0x80, 0x02, 0xF3]) := by decide

theorem test_rti : seen (placed 0x8000 [0x40] 0x00 0x00 0x00 0xFE 0x24 [(0x01FF, 0x34), (0x0100, 0x78), (0x0101, 0x56)]) [] =
    some (⟨0x5678, 0x00, 0x00, 0x00, 0x24, 0x01⟩, 6, []) := by decide

theorem test_bcc : seen (placed 0x8000 [0x90, 0x02] 0x00 0x00 0x00 0xFD 0x24 []) [] =
    some (⟨0x8004, 0x00, 0x00, 0x00, 0x24, 0xFD⟩, 3, []) := by decide

theorem test_bcs : seen (placed 0x8000 [0xB0, 0x00] 0x00 0x00 0x00 0xFD 0x25 []) [] =
    some (⟨0x8002, 0x00, 0x00, 0x00, 0x25, 0xFD⟩, 3, []) := by decide

theorem test_beq : seen (placed 0x80FD [0xF0, 0x01] 0x00 0x00 0x00 0xFD 0x26 []) [] =
    some (⟨0x8100, 0x00, 0x00, 0x00, 0x26, 0xFD⟩, 4, []) := by decide

theorem test_bne : seen (placed 0x8010 [0xD0, 0xFC] 0x00 0x00 0x00 0xFD 0x24 []) [] =
    some (⟨0x800E, 0x00, 0x00, 0x00, 0x24, 0xFD⟩, 3, []) := by decide

theorem test_bpl : seen (placed 0x8000 [0x10, 0xFE] 0x00 0x00 0x00 0xFD 0x24 []) [] =
    some (⟨0x8000, 0x00, 0x00, 0x00, 0x24, 0xFD⟩, 3, []) := by decide

theorem test_bmi : seen (placed 0x8000 [0x30, 0x10] 0x00 0x00 0x00 0xFD 0xA4 []) [] =
    some (⟨0x8012, 0x00, 0x00, 0x00, 0xA4, 0xFD⟩, 3, []) := by decide

theorem test_bvc : seen (placed 0x8000 [0x50, 0x7F] 0x00 0x00 0x00 0xFD 0x24 []) [] =
    some (⟨0x8081, 0x00, 0x00, 0x00, 0x24, 0xFD⟩, 3, []) := by decide

theorem test_bvs : seen (placed 0x8000 [0x70, 0x80] 0x00 0x00 0x00 0xFD 0x64 []) [] =
    some (⟨0x7F82, 0x00, 0x00, 0x00, 0x64, 0xFD⟩, 4, []) := by decide

theorem test_clc : seen (placed 0x8000 [0x18] 0x00 0x00 0x00 0xFD 0xE7 []) [] =
    some (⟨0x8001, 0x00, 0x00, 0x00, 0xE6, 0xFD⟩, 2, []) := by decide

theorem test_sec : seen (placed 0x8000 [0x38] 0x00 0x00 0x00 0xFD 0x24 []) [] =
    some (⟨0x8001, 0x00, 0x00, 0x00, 0x25, 0xFD⟩, 2, []) := by decide

theorem test_cli : seen (placed 0x8000 [0x58] 0x00 0x00 0x00 0xFD 0x24 []) [] =
    some (⟨0x8001, 0x00, 0x00, 0x00, 0x20, 0xFD⟩, 2, []) := by decide

theorem test_sei : seen (placed 0x8000 [0x78] 0x00 0x00 0x00 0xFD 0x20 []) [] =
    some (⟨0x8001, 0x00, 0x00, 0x00, 0x24, 0xFD⟩, 2, []) := by decide

theorem test_clv : seen (placed 0x8000 [0xB8] 0x00 0x00 0x00 0xFD 0xE7 []) [] =
    some (⟨0x8001, 0x00, 0x00, 0x00, 0xA7, 0xFD⟩, 2, []) := by decide

theorem test_cld : seen (placed 0x8000 [0xD8] 0x00 0x00 0x00 0xFD 0x2C []) [] =
    some (⟨0x8001, 0x00, 0x00, 0x00, 0x24, 0xFD⟩, 2, []) := by decide

theorem test_sed : seen (placed 0x8000 [0xF8] 0x00 0x00 0x00 0xFD 0x24 []) [] =
    some (⟨0x8001, 0x00, 0x00, 0x00, 0x2C, 0xFD⟩, 2, []) := by decide

theorem test_nop : seen (placed 0x8000 [0xEA] 0x12 0x00 0x00 0xFD 0xE7 []) [] =
    some (⟨0x8001, 0x12, 0x00, 0x00, 0xE7, 0xFD⟩, 2, []) := by decide

/-! ## Faults (spec/95_test_vectors.md, section 2.13) and reset -/

/-- The fault a step records, and PC. -/
def faultSeen (s : State) : Option (Option Fault × Word) :=
  match step s with
  | .next t => some (t.fault, t.pc)
  | .fault _ | .refused _ => none

theorem test_undocumented : faultSeen (placed 0x8000 [0xFF] 0 0 0 0xFD 0x24 []) =
    some (some (.unsupportedOpcode 0x8000 0xFF), 0x8001) := by decide

theorem test_canonical_address : faultSeen (placed 0x8000 [0xAD, 0x05, 0x3F] 0 0 0 0xFD 0x24 []) =
    some (some (.invalidRegisterAccess .read 0x2005), 0x8003) := by decide

theorem test_write_status : faultSeen (placed 0x8000 [0x8D, 0x0A, 0x20] 1 0 0 0xFD 0x24 []) =
    some (some (.invalidRegisterAccess .write 0x2002), 0x8003) := by decide

/-- The machine after `powerUp()` with the standard launch parameters is `State.reset` (R57, R323). -/
theorem test_powerUp : powerUp Launch.standard = .next State.reset := rfl

/-- R322(d): with every count 1 and no penalty, a taken branch costs 1. -/
theorem test_no_branch_penalty : cost { Launch.standard with cycleRows := [(0xD0, ⟨1, false, false⟩)] } 0xD0 false 2 = 1 ∧
    cost Launch.standard 0xD0 false 2 = 4 := by decide

/-- The 7 idle reset steps of R323 end at an instruction boundary with PC at the reset vector. -/
theorem test_first_step_idles : seen State.reset [] = some (⟨0x0000, 0, 0, 0, 0x24, 0xFD⟩, 7, []) := by decide

theorem test_withFetchWord : seen (State.reset.withFetchWord 16 0x80A9) [0x0000, 0x0001] =
    some (⟨0x0002, 0x80, 0, 0, 0xA4, 0xFD⟩, 2, [0xA9, 0x80]) := by decide

theorem test_decodeTableWord : decodeTableWord 24 0x1234BD = some (.ldaAbsx 0x1234) := by decide

/-! ## The picture unit (spec/95_test_vectors.md, X2 to X7) -/

/-- X2. -/
theorem test_ram_mirror : [0x1ABC, 0x02BC, 0x0ABC, 0x12BC].map (pokeByte 0x1ABC 0x5A State.reset).byteAt =
    [0x5A, 0x5A, 0x5A, 0x5A] := by decide

/-- The PPU after a CPU write, as the CPU makes it. -/
def written (a : Word) (d : Byte) (s : State) : State :=
  match memWrite a d s with
  | .ok _ t | .raised _ t => t

/-- X3. -/
theorem test_register_mirror : (written 0x3FF8 0x90 State.reset).ppu.ctrl = 0x90 := by decide

/-- X4: the cycle that begins at (241, 1) sets vblank, and the NMI when PPUCTRL bit 7 is set. -/
theorem test_vblank : (ppuCycle { State.reset with
      ppu := { State.reset.ppu with scanline := 241, cycle := 1, ctrl := 0x80 } }).nmiPending = true ∧
    (ppuCycle { State.reset with ppu := { State.reset.ppu with scanline := 241, cycle := 1 } }).ppu.vblank = true := by
  decide

/-- X5: low plane 0xF0, high plane 0xCC. -/
theorem test_tile_row : tileRow 0xF0 0xCC = [3, 3, 1, 1, 2, 2, 0, 0] := by decide

/-- X6 at the four source bytes it names (i = 0, 0xEF, 0xF0, 0xFF), `oam_addr` = 0x10. -/
theorem test_oam_dma : [0x10, 0xFF, 0x00, 0x0F].map (Mem.read (written 0x4014 0x02 { State.reset with
      ram := [(0x200, 0xFF), (0x2EF, 0x10), (0x2F0, 0x0F)]
      ppu := { State.reset.ppu with oamAddr := 0x10 } }).ppu.oam) = [0xFF, 0x10, 0x0F, 0x00] := by decide +kernel

/-- X7: 0x7D, then 0x5E. -/
theorem test_scroll : (written 0x2005 0x5E (written 0x2005 0x7D State.reset)).ppu.t = 0x616F ∧
    (written 0x2005 0x7D State.reset).ppu.fineX = 5 ∧ (written 0x2005 0x7D State.reset).ppu.w = true := by decide

/-! ## The hypotheses of every statement are met -/

theorem witness_DecodeOfEncode : (Instr.sbcAbsy 0xFFFF).wellFormed = true ∧ Instr.brk.wellFormed = true := by decide

theorem witness_EncodeOfDecode : decode [0x6C, 0xFF, 0x02, 0xEA] = .ok (.jmpInd 0x02FF, [0xEA]) := rfl

theorem witness_UndocumentedBytesRefused : 0x02 ∈ undocumentedOpcodes ∧ 0xFF ∈ undocumentedOpcodes ∧
    0x00 ∉ undocumentedOpcodes ∧ 0xFE ∉ undocumentedOpcodes := by decide

/-- An instruction whose bytes wrap from 0xFFFF to 0x0000 (R105). -/
def wrapping : State := placed 0xFFFE [0xAD, 0x02, 0x20] 0 0 0 0xFD 0x24 []

/-- The fault in what an instruction answers. -/
def faultOf (o : Host.Outcome State Fault Refusal) : Option (Option Fault) :=
  match o with
  | .next t => some t.fault
  | .fault _ | .refused _ => none

/-- An instruction across 0xFFFF and 0x0000 in plain storage, in a run with and a run without a fault. -/
theorem witness_StepRunsDecodedInstruction : wrapping.atBoundary = true ∧
    (∀ k, k < (Instr.ldaAbs 0x2002).length → wrapping.plain (wrapping.pc + BitVec.ofNat 16 k) = true) ∧
    decode [wrapping.byteAt wrapping.pc, wrapping.byteAt (wrapping.pc + 1), wrapping.byteAt (wrapping.pc + 2)]
      = .ok (.ldaAbs 0x2002, []) ∧
    faultOf (exec (.ldaAbs 0x2002) { wrapping with pc := 0x0001 }) = some none ∧
    faultOf (exec (.ldaAbs 0x2000) { wrapping with pc := 0x0001 }) = some (some (.invalidRegisterAccess .read 0x2000)) :=
  ⟨by decide, by decide, rfl, by decide, by decide⟩

/-- An opcode byte fetched from the last register of the window (index 7), its operand bytes from `EXT` after it. -/
def atDataPort : State :=
  { placed 0x3FFF [] 0 0 0 0xFD 0x24 [(0x4000, 0x34), (0x4001, 0x12)] with
    ppu := { State.reset.ppu with chr := [(0, 0xAD)] }
    launch := { Launch.standard with ppudataReadIncrement := true } }

theorem witness_StepRunsDecodedInstruction_register : atDataPort.atBoundary = true ∧
    atDataPort.fetchable (Instr.ldaAbs 0x1234).length = true ∧
    decode (atDataPort.fetchedBytes (Instr.ldaAbs 0x1234).length) = .ok (.ldaAbs 0x1234, []) ∧
    (atDataPort.afterFetch (Instr.ldaAbs 0x1234).length).ppu.v = 1 := ⟨by decide, by decide, rfl, by decide⟩

/-- PC at $2002 with vblank set: the byte read is 0x80, which has no entry. -/
def atStatus : State :=
  { placed 0x2002 [] 0 0 0 0xFD 0x24 [] with ppu := { State.reset.ppu with vblank := true } }

/-- An immediate operand at $2000, and a second operand byte at 0x4014. -/
theorem witness_InstructionFetchRaises_operand :
    ((placed 0x1FFF [0xA9] 0 0 0 0xFD 0x24 []).atBoundary = true ∧ 1 < (Instr.ldaImm 0).length ∧
      (placed 0x1FFF [0xA9] 0 0 0 0xFD 0x24 []).fetchable 1 = true ∧
      (placed 0x1FFF [0xA9] 0 0 0 0xFD 0x24 []).fetchedBytes 1 = (encode (.ldaImm 0)).take 1 ∧
      (placed 0x1FFF [0xA9] 0 0 0 0xFD 0x24 []).readable 0x2000 = false) ∧
    ((placed 0x4012 [0xAD, 0x34] 0 0 0 0xFD 0x24 []).atBoundary = true ∧ 2 < (Instr.ldaAbs 0x34).length ∧
      (placed 0x4012 [0xAD, 0x34] 0 0 0 0xFD 0x24 []).fetchable 2 = true ∧
      (placed 0x4012 [0xAD, 0x34] 0 0 0 0xFD 0x24 []).fetchedBytes 2 = (encode (.ldaAbs 0x34)).take 2 ∧
      (placed 0x4012 [0xAD, 0x34] 0 0 0 0xFD 0x24 []).readable 0x4014 = false) := by decide

theorem witness_InstructionFetchRaises :
    ((placed 0x2000 [] 0 0 0 0xFD 0x24 []).atBoundary = true ∧ (placed 0x2000 [] 0 0 0 0xFD 0x24 []).readable 0x2000 = false) ∧
    ((placed 0x4014 [] 0 0 0 0xFD 0x24 []).atBoundary = true ∧ (placed 0x4014 [] 0 0 0 0xFD 0x24 []).readable 0x4014 = false) ∧
    (atStatus.atBoundary = true ∧ atStatus.readable atStatus.pc = true ∧
      atStatus.readByte atStatus.pc ∈ undocumentedOpcodes) := by decide

/-- An undocumented opcode byte at a boundary, and a state that holds the fault. -/
theorem witness_FaultedStateHasNoSuccessor : (∃ t f, (placed 0x8000 [0x02] 0 0 0 0xFD 0x24 []).fault = none ∧
      beginCycle (placed 0x8000 [0x02] 0 0 0 0xFD 0x24 []) = .next t ∧ t.fault = some f) ∧
    ({ State.reset with fault := some (.unsupportedOpcode 0x8000 0x02) } : State).fault =
      some (.unsupportedOpcode 0x8000 0x02) :=
  ⟨⟨_, _, rfl, rfl, rfl⟩, rfl⟩

theorem witness_OwedCyclesRun : State.reset.fault = none ∧ 7 ≤ State.reset.cyclesRemaining := by decide

/-- NOP at 0x8000. -/
def atNop : State := placed 0x8000 [0xEA] 0 0 0 0xFD 0x24 []

theorem witness_InstructionOccupiesItsCost : atNop.atBoundary = true ∧
    (∀ k, k < Instr.nop.length → atNop.plain (atNop.pc + BitVec.ofNat 16 k) = true) ∧
    decode [atNop.byteAt atNop.pc, atNop.byteAt (atNop.pc + 1), atNop.byteAt (atNop.pc + 2)] = .ok (.nop, [0, 0]) ∧
    ∃ t, exec .nop { atNop with pc := atNop.pc + BitVec.ofNat 16 Instr.nop.length } = .next t ∧ t.fault = none ∧
      1 ≤ t.cyclesRemaining :=
  ⟨by decide, by decide, rfl, _, rfl, rfl, by decide⟩

theorem witness_NmiTakenAtBoundary : ∃ s : State, s.fault = none ∧ s.cyclesRemaining = 0 ∧ s.nmiPending = true ∧
    1 ≤ s.launch.nmiCycles := ⟨{ atNop with nmiPending := true }, rfl, rfl, rfl, by decide⟩

theorem witness_StepKeepsWellFormed : ∃ t, State.reset.wf = true ∧ step State.reset = .next t :=
  ⟨_, by decide, step_of_begin rfl (beginCycle_owed (by decide))⟩

theorem witness_StepKeepsLaunch : ∃ t, step State.reset = .next t :=
  ⟨_, step_of_begin rfl (beginCycle_owed (by decide))⟩

theorem witness_OwedCyclesBounded : ∃ t, State.reset.launch.cycleRows = [] ∧ State.reset.launch.nmiCycles ≤ 7 ∧
    State.reset.cyclesRemaining ≤ 7 + State.reset.launch.dmaStallCycles ∧ step State.reset = .next t :=
  ⟨_, rfl, by decide, by decide, step_of_begin rfl (beginCycle_owed (by decide))⟩

theorem witness_ResetAndPowerUp : Launch.standard.ramMirrorLast.toNat < 0xFFFC ∧
    ({ Launch.standard with ramMirrorLast := 0xFFFB } : Launch).ramMirrorLast.toNat < 0xFFFC := by decide

/-- Each row of the decoder at its first and last address, each register index, and the trigger. -/
theorem witness_BusRead :
    (([0x0000, 0x1FFF] : List Word).all fun a => decide (a.toNat ≤ State.reset.launch.ramMirrorLast.toNat)) = true ∧
    (([0x2000, 0x2002, 0x2004, 0x2007, 0x3FFA, 0x3FFC, 0x3FFF] : List Word).all fun a =>
      decide (State.reset.launch.ramMirrorLast.toNat < a.toNat ∧ 0x2000 ≤ a.toNat ∧ a.toNat ≤ 0x3FFF)) = true ∧
    (0x3FFA : Word).toNat % 8 = 2 ∧ (0x3FFC : Word).toNat % 8 = 4 ∧ (0x3FFF : Word).toNat % 8 = 7 ∧
    ((0x2000 : Word).toNat % 8 ≠ 2 ∧ (0x2000 : Word).toNat % 8 ≠ 4 ∧ (0x2000 : Word).toNat % 8 ≠ 7) ∧
    State.reset.launch.ramMirrorLast.toNat < (0x4014 : Word).toNat ∧
    (([0x4000, 0x4013, 0x4015, 0xFFFF] : List Word).all fun a =>
      decide (State.reset.launch.ramMirrorLast.toNat < a.toNat ∧ (a.toNat < 0x2000 ∨ 0x3FFF < a.toNat) ∧ a ≠ 0x4014)) = true
    := by decide

theorem witness_StoredByteReadsBack :
    (([0x0000, 0x1FFF, 0x4000, 0x4013, 0x4015, 0xFFFF] : List Word).all State.reset.plain) = true := by decide

theorem witness_RegisterWindowMirrors : 0 < 1024 ∧ 1023 < 1024 ∧ 0 < 8 ∧ 7 < 8 ∧
    State.reset.launch.ramMirrorLast.toNat < 0x2000 := by decide

/-- Each region of the PPU map at its first and last address. -/
theorem witness_PpuSpaceFolds : ((0x0000 : BitVec 14).toNat < 0x2000 ∧ (0x1FFF : BitVec 14).toNat < 0x2000) ∧
    (0x2000 ≤ (0x2000 : BitVec 14).toNat ∧ (0x2FFF : BitVec 14).toNat < 0x3000) ∧
    (0x3000 ≤ (0x3000 : BitVec 14).toNat ∧ (0x3EFF : BitVec 14).toNat < 0x3F00) ∧
    (0x3F00 ≤ (0x3F00 : BitVec 14).toNat ∧ 0x3F00 ≤ (0x3FFF : BitVec 14).toNat) := by decide

theorem witness_LoadResult : (loadForm (.ldaImm 0x80) = some (.a, .imm 0x80) ∧ (Source.imm 0x80).readable atNop = true) ∧
    (loadForm (.ldxAbsy 0x2004) = some (.x, .mem (.absy 0x2004)) ∧ (Source.mem (.absy 0x2004)).readable atNop = true) := by
  decide

theorem witness_StoreResult : (storeForm (.staAbs 0x0000) = some (.a, .abs 0x0000) ∧
      atNop.writable (effective atNop (.abs 0x0000)).ea = true) ∧
    (storeForm (.styAbs 0x3FFF) = some (.y, .abs 0x3FFF) ∧
      atNop.writable (effective atNop (.abs 0x3FFF)).ea = true) := by decide

theorem witness_OamDmaCopies : storeForm (.staAbs 0x4014) = some (.a, .abs 0x4014) ∧
    atNop.target (effective atNop (.abs 0x4014)).ea = .oamDma ∧ atNop.plainPage (atNop.reg .a) ∧
    ({ atNop with a := 0x41 } : State).plainPage 0x41 :=
  ⟨rfl, by decide, by unfold State.plainPage; decide +kernel, by unfold State.plainPage; decide +kernel⟩

theorem witness_DmaFromRegistersRaises : storeForm (.staAbs 0x4014) = some (.a, .abs 0x4014) ∧
    atNop.target (effective atNop (.abs 0x4014)).ea = .oamDma ∧ atNop.launch.ramMirrorLast.toNat < 0x2000 ∧
    (([0x20, 0x3F] : List Byte).all fun page => decide (0x20 ≤ (({ atNop with a := page } : State).reg .a).toNat ∧
      (({ atNop with a := page } : State).reg .a).toNat ≤ 0x3F)) = true ∧
    ({ atNop with a := 0x40 } : State).reg .a = 0x40 := by decide

/-- The premise of every clause on the standard cycle counts. -/
theorem witness_standardCycles : atNop.launch.cycleRows = [] := rfl

theorem witness_TransferResult : transferForm .tax = some (.x, .a) ∧ transferForm .tya = some (.a, .y) := by decide

theorem witness_PullResult : ∃ d : Byte, d = atNop.byteAt (BitVec.ofNat 16 (0x100 + (atNop.sp.toNat + 1) % 256)) := ⟨_, rfl⟩

theorem witness_LogicResult : logicForm (.eorAbs 0x2002) = some (.eor, .mem (.abs 0x2002)) ∧
    (Source.mem (.abs 0x2002)).readable atNop = true := by decide

theorem witness_BitResult : bitForm (.bitZp 0xFF) = some (.mem (.zp 0xFF)) ∧
    (Source.mem (.zp 0xFF)).readable atNop = true := by decide

theorem witness_AdcResult : ∃ m r : Byte, adcForm (.adcImm 0xFF) = some (.imm 0xFF) ∧
    (Source.imm 0xFF).readable atNop = true ∧ m = (Source.imm 0xFF).value atNop ∧
    r = BitVec.ofNat 8 (atNop.a.toNat + m.toNat + carryNat atNop.p.c) := ⟨_, _, rfl, rfl, rfl, rfl⟩

theorem witness_SbcResult : ∃ m r : Byte, sbcForm (.sbcIndy 0xFF) = some (.mem (.indy 0xFF)) ∧
    (Source.mem (.indy 0xFF)).readable atNop = true ∧ m = (Source.mem (.indy 0xFF)).value atNop ∧
    r = BitVec.ofInt 8 (atNop.a.toNat - m.toNat - (1 - carryNat atNop.p.c)) := ⟨_, _, rfl, by decide, rfl, rfl⟩

theorem witness_DecimalFlagIgnored : ∃ t, Instr.adcImm 0x01 ∉ ([.php, .plp, .brk, .rti, .cld, .sed] : List Instr) ∧
    exec (.adcImm 0x01) atNop = .next t := ⟨_, by decide, rfl⟩

theorem witness_CompareResult : ∃ m : Byte, compareForm (.cpxAbs 0x2007) = some (.x, .mem (.abs 0x2007)) ∧
    (Source.mem (.abs 0x2007)).readable atNop = true ∧ m = (Source.mem (.abs 0x2007)).value atNop :=
  ⟨_, rfl, by decide, rfl⟩

theorem witness_IncDecMemoryResult : (∃ r : Byte, incForm (.incAbsx 0x2004) = some (.absx 0x2004) ∧
      r = atNop.readByte (effective atNop (.absx 0x2004)).ea + 1) ∧
    (∃ r : Byte, decForm (.decZpx 0xFF) = some (.zpx 0xFF) ∧
      r = atNop.readByte (effective atNop (.zpx 0xFF)).ea - 1) ∧
    (atNop.readable (effective atNop (.absx 0x2004)).ea = true ∧ atNop.writable (effective atNop (.absx 0x2004)).ea = true) ∧
    (atNop.readable (effective atNop (.zpx 0xFF)).ea = true ∧ atNop.writable (effective atNop (.zpx 0xFF)).ea = true) :=
  ⟨⟨_, rfl, rfl⟩, ⟨_, rfl, rfl⟩, by decide, by decide⟩

theorem witness_IncDecRegisterResult : stepRegForm .inx = some (.x, true) ∧ stepRegForm .dey = some (.y, false) := by decide

theorem witness_ShiftResult_acc : shiftAccForm .rorAcc = some .ror ∧ shiftAccForm .aslAcc = some .asl := by decide

theorem witness_ShiftResult_mem : ∃ r : Byte, shiftMemForm (.rolAbs 0x2007) = some (.rol, .abs 0x2007) ∧
    atNop.readable (effective atNop (.abs 0x2007)).ea = true ∧ atNop.writable (effective atNop (.abs 0x2007)).ea = true ∧
    r = ShiftOp.rol.result (atNop.readByte (effective atNop (.abs 0x2007)).ea) atNop.p.c :=
  ⟨_, rfl, by decide, by decide, rfl⟩

theorem witness_WriteToStatusRaises : (storeForm (.staAbs 0x3FFA) = some (.a, .abs 0x3FFA) ∧
      atNop.target (effective atNop (.abs 0x3FFA)).ea = .ppu 2) ∧
    (modifyForm (.incAbs 0x2002) = some (.abs 0x2002) ∧ atNop.target (effective atNop (.abs 0x2002)).ea = .ppu 2) ∧
    (modifyForm (.lsrAbsx 0x2002) = some (.absx 0x2002) ∧ atNop.target (effective atNop (.absx 0x2002)).ea = .ppu 2) := by
  decide

/-- The pointer at the end of a page, and one whose two bytes are registers with a read and plain storage. -/
theorem witness_JumpResult : ∀ a ∈ ([0x02FF, 0x0300, 0xFFFF] : List Word), ∃ high,
    high = (if a.toNat % 256 = 255 then a - 255 else a + 1) ∧ atNop.readable a = true ∧ atNop.readable high = true := by
  intro a h
  simp only [List.mem_cons, List.not_mem_nil, or_false] at h
  obtain rfl | rfl | rfl := h <;> exact ⟨_, rfl, by decide, by decide⟩

theorem witness_RtiResult : ∃ d : Byte, d = atNop.byteAt (stackAddress (atNop.sp + 1)) := ⟨_, rfl⟩

theorem witness_BranchResult : ∃ target, branchForm atNop.p (.bne 0x80) = some (true, 0x80) ∧
    target = BitVec.ofInt 16 (atNop.pc.toNat + (0x80 : Byte).toInt) := ⟨_, rfl, rfl⟩

theorem witness_FlagAndNopResult : ∃ p, flagForm atNop.p .sed = some p := ⟨_, rfl⟩

theorem witness_UnreadableOperandRaises : (dataReadForm (.incAbs 0x4014) = some (.abs 0x4014) ∧
      atNop.readable (effective atNop (.abs 0x4014)).ea = false) ∧
    (dataReadForm (.ldaAbsx 0x2000) = some (.absx 0x2000) ∧
      atNop.readable (effective atNop (.absx 0x2000)).ea = false) ∧
    atNop.readable 0x2000 = false ∧
    ((0x2003 : Word) = (if (0x2002 : Word).toNat % 256 = 255 then 0x2002 - 255 else 0x2002 + 1) ∧
      atNop.readable 0x2002 = true ∧ atNop.readable 0x2003 = false) := by decide

/-- Every count 1, no penalty, no stall: the launch of R322(d). -/
def oneCycleEach : State :=
  { atNop with launch := { Launch.standard with
      cycleRows := (List.range 256).map fun k => (BitVec.ofNat 8 k, ⟨1, false, false⟩)
      nmiCycles := 1 } }

theorem oneCycleEach_rows : ((List.range 256).all fun k =>
    cyclesOf oneCycleEach.launch (BitVec.ofNat 8 k) == ⟨1, false, false⟩) = true := by decide +kernel

theorem witness_InstructionCost : (Launch.standard.cycleRows = [] ∧
      2 ≤ (if (Instr.bne 0x10).mode = .rel then 2 else 0) ∧ 0 ≤ (if Instr.nop.mode = .rel then 2 else 0)) ∧
    (∃ t, (∀ i : Instr, cyclesOf oneCycleEach.launch i.opcode = ⟨1, false, false⟩) ∧ oneCycleEach.launch.nmiCycles = 1 ∧
      oneCycleEach.launch.dmaStallCycles = 0 ∧ oneCycleEach.cyclesRemaining = 0 ∧ step oneCycleEach = .next t ∧
      t.fault = none) := by
  refine ⟨by decide, ?_⟩
  obtain ⟨t, ht, hf⟩ : ∃ t, beginCycle oneCycleEach = .next t ∧ t.fault = none := ⟨_, rfl, rfl⟩
  refine ⟨_, fun i => ?_, rfl, rfl, rfl, step_of_begin rfl ht, ?_⟩
  · simpa using List.all_eq_true.mp oneCycleEach_rows i.opcode.toNat (List.mem_range.mpr i.opcode.isLt)
  · rw [endStep_none hf, iterate_fault]
    exact hf

theorem witness_MemoryFrame : ∃ t, exec (.staAbs 0x0800) atNop = .next t ∧
    ∀ a ∈ storeAddresses atNop (.staAbs 0x0800), atNop.target 0x0001 ≠ atNop.target a :=
  (Res.outcome_next (store 0x8D .a (.abs 0x0800) atNop)).imp fun _ h => ⟨h, fun a ha => by
    obtain rfl : a = 0x0800 := List.mem_singleton.mp ha
    decide⟩

/-- NOP writes no flag and no register; DEX writes X alone. -/
theorem witness_FlagAndRegisterFrame : ∃ t, exec .nop atNop = .next t ∧ atNop.p.u = true ∧ atNop.p.b = false ∧
    Instr.nop.mnemonic ∉ ([.ldx, .tax, .tsx, .inx, .dex] : List Mnemonic) ∧
    Instr.nop.mnemonic ∉ ([.adc, .sbc, .bit, .clv, .plp, .rti] : List Mnemonic) := ⟨_, rfl, by decide⟩

theorem witness_PpuRegisterWrites : (∀ k ∈ ([0, 1, 3, 4, 5, 6, 7] : List Nat),
      atNop.target (BitVec.ofNat 16 (0x2000 + k)) = .ppu (BitVec.ofNat 3 k) ∧
      atNop.target (BitVec.ofNat 16 (0x3FF8 + k)) = .ppu (BitVec.ofNat 3 k)) ∧
    atNop.ppu.w = false ∧ (written 0x2005 0 atNop).ppu.w = true := by decide

theorem witness_PositionOfPpuCycle : State.reset.ppu.scanline = 0 ∧ State.reset.ppu.cycle = 0 ∧
    State.reset.frameComplete = false := by decide

theorem witness_PpuCycleEvents : ({ State.reset with launch := { Launch.standard with spriteOracle := .never } } :
    State).launch.spriteOracle = .never := rfl

/-- The first and last line off the render lines; rendering disabled at the events, at a pixel, and at the end of a frame. -/
theorem witness_QuietPpuCycle : ∃ line column : Nat,
    line = (if State.reset.ppu.cycle = 340 then (if State.reset.ppu.scanline = 261 then 0 else State.reset.ppu.scanline + 1)
      else State.reset.ppu.scanline) ∧
    column = (if State.reset.ppu.cycle = 340 then 0 else State.reset.ppu.cycle + 1) ∧
    (State.reset.ppu.mask.getLsbD 3 = false ∧ State.reset.ppu.mask.getLsbD 4 = false) ∧
    (∀ k ∈ ([240, 260] : List Nat), 240 ≤ ({ State.reset.ppu with scanline := k } : Ppu).scanline ∧
      ({ State.reset.ppu with scanline := k } : Ppu).scanline ≤ 260) := ⟨_, _, rfl, rfl, by decide, by decide⟩

theorem witness_PixelEmitted : ∃ (s : State) (x px pal : Nat),
    (s.ppu.mask.getLsbD 3 || s.ppu.mask.getLsbD 4) = true ∧ x = s.ppu.fineX.toNat ∧
    px = (if s.ppu.mask.getLsbD 3 then
      2 * carryNat (s.ppu.bgHi.getLsbD (15 - x)) + carryNat (s.ppu.bgLo.getLsbD (15 - x)) else 0) ∧
    pal = 2 * carryNat (s.ppu.atHi.getLsbD (7 - x)) + carryNat (s.ppu.atLo.getLsbD (7 - x)) ∧ px = 3 ∧ pal = 1 :=
  ⟨{ State.reset with ppu := { State.reset.ppu with mask := 0x18, fineX := 7, bgLo := 0x0100, bgHi := 0x0100, atLo := 1 } },
    7, 3, 1, by decide, by decide, by decide, by decide, rfl, rfl⟩

/-- The PPU at the start of a tile fetch, with rendering enabled. -/
def fetching (line c : Nat) : State :=
  { State.reset with ppu := { State.reset.ppu with scanline := line, cycle := c, mask := 0x08 } }

/-- The fetch windows at their first and last tile, on the first, the last visible and the pre-render line. -/
theorem witness_TileFetch : ∀ at' ∈ ([(0, 1), (239, 249), (261, 321), (261, 329)] : List (Nat × Nat)),
    ((fetching at'.1 at'.2).ppu.mask.getLsbD 3 || (fetching at'.1 at'.2).ppu.mask.getLsbD 4) = true ∧
    ((fetching at'.1 at'.2).ppu.scanline ≤ 239 ∨ (fetching at'.1 at'.2).ppu.scanline = 261) ∧
    (fetching at'.1 at'.2).ppu.cycle % 8 = 1 ∧
    ((fetching at'.1 at'.2).ppu.cycle ≤ 249 ∨ (fetching at'.1 at'.2).ppu.cycle = 321 ∨ (fetching at'.1 at'.2).ppu.cycle = 329) := by
  decide

/-- Active at both ends of both windows; not at the idle cycles, off the render lines, or with rendering disabled. -/
theorem witness_FetchAndShiftCycle :
    (∀ at' ∈ ([(0, 1), (239, 256), (261, 321), (261, 336)] : List (Nat × Nat)),
      decide (((fetching at'.1 at'.2).ppu.mask.getLsbD 3 || (fetching at'.1 at'.2).ppu.mask.getLsbD 4) = true ∧
        ((fetching at'.1 at'.2).ppu.scanline ≤ 239 ∨ (fetching at'.1 at'.2).ppu.scanline = 261) ∧
        ((1 ≤ (fetching at'.1 at'.2).ppu.cycle ∧ (fetching at'.1 at'.2).ppu.cycle ≤ 256) ∨
          (321 ≤ (fetching at'.1 at'.2).ppu.cycle ∧ (fetching at'.1 at'.2).ppu.cycle ≤ 336))) = true) ∧
    (∀ at' ∈ ([(0, 0), (0, 257), (239, 320), (261, 337), (240, 1)] : List (Nat × Nat)),
      decide (((fetching at'.1 at'.2).ppu.mask.getLsbD 3 || (fetching at'.1 at'.2).ppu.mask.getLsbD 4) = true ∧
        ((fetching at'.1 at'.2).ppu.scanline ≤ 239 ∨ (fetching at'.1 at'.2).ppu.scanline = 261) ∧
        ((1 ≤ (fetching at'.1 at'.2).ppu.cycle ∧ (fetching at'.1 at'.2).ppu.cycle ≤ 256) ∨
          (321 ≤ (fetching at'.1 at'.2).ppu.cycle ∧ (fetching at'.1 at'.2).ppu.cycle ≤ 336))) = false) := by decide

theorem witness_HostQueries : (0 < 8 ∧ 7 < 8) ∧ ((0x0000 : BitVec 15).toNat % 1024 < 0x3C0 ∧
    (0x7FBF : BitVec 15).toNat % 1024 < 0x3C0) ∧ 63 < 64 ∧ 63 ≤ 63 := by decide

end Sys2Proof.Tests
end

section
/-!
PROOFS. The status byte (R27, R28): what each of its bits holds, and the two round trips that follow.
-/
namespace Sys2Proof.Machine

/-- R28: the bits of the status byte, from bit 0 up, are C Z I D B U V N. -/
theorem Flags.getLsbD_toByte (p : Flags) (k : Nat) :
    p.toByte.getLsbD k = [p.c, p.z, p.i, p.d, p.b, p.u, p.v, p.n].getD k false := by
  match k with
  | 0 | 1 | 2 | 3 | 4 | 5 | 6 | 7 =>
    simp only [Flags.toByte, BitVec.getLsbD_append]
    simp
  | k + 8 => exact BitVec.getLsbD_of_ge p.toByte (k + 8) (Nat.le_add_left 8 k)

/-- Every field is read back from the bit it was packed into. -/
theorem Flags.ofByte_toByte (p : Flags) : Flags.ofByte p.toByte = p := by
  simp only [Flags.ofByte, Flags.getLsbD_toByte]
  rfl

/-- Every bit of the byte is the field that was read from it, so no bit is lost. -/
theorem Flags.toByte_ofByte (d : Byte) : (Flags.ofByte d).toByte = d := by
  refine BitVec.eq_of_getLsbD_eq fun k hk => ?_
  rw [Flags.getLsbD_toByte]
  match k, hk with
  | 0, _ | 1, _ | 2, _ | 3, _ | 4, _ | 5, _ | 6, _ | 7, _ => rfl

end Sys2Proof.Machine

namespace Sys2Proof

open Sys2Proof.Machine

/-- Settles O21: each direction compares the eight fields with the eight bits, by `Flags.getLsbD_toByte`. -/
theorem statusByteRoundTrips : Obligations.StatusByteRoundTrips :=
  ⟨Flags.ofByte_toByte, Flags.toByte_ofByte⟩

end Sys2Proof
end

section
/-!
PROOFS. The CPU read of one byte (R61 to R68, R250 to R256): what a register of the window answers and leaves, and the read of
each row of the decoder.
-/
namespace Sys2Proof.Machine

/-! ## The register window -/

/-- R63, R250: an address of the window selects the register of index `a mod 8`. -/
theorem State.target_window {s : State} {a : Word} (hl : s.launch.ramMirrorLast.toNat < a.toNat) (h1 : 0x2000 ≤ a.toNat)
    (h2 : a.toNat ≤ 0x3FFF) : s.target a = .ppu (BitVec.ofNat 3 (a.toNat % 8)) := by
  have hindex : a.extractLsb' 0 3 = BitVec.ofNat 3 (a.toNat % 8) := BitVec.eq_of_toNat_eq (by simp)
  rw [State.target, busTarget_window hl h1 h2, hindex]

/-- A register that has a read answers its byte and leaves the PPU it names (R68). -/
theorem memRead_register {s : State} {a : Word} {index : BitVec 3} {d : Byte} {p : Ppu} (ht : s.target a = .ppu index)
    (hr : ppuRegRead s.launch index s.ppu = some (d, p)) : memRead a s = .ok d { s with ppu := p } := by
  simp only [memRead, ht, hr]

/-- A register that has no read raises at its canonical address (R252, R341). -/
theorem memRead_register_none {s : State} {a : Word} {index : BitVec 3} (ht : s.target a = .ppu index)
    (hr : ppuRegRead s.launch index s.ppu = none) :
    memRead a s = .raised (.invalidRegisterAccess .read (registerAddress index)) s := by
  simp only [memRead, ht, hr]

theorem ppuRegRead_none (l : Launch) {index : BitVec 3} (p : Ppu) (h2 : index.toNat ≠ 2) (h4 : index.toNat ≠ 4)
    (h7 : index.toNat ≠ 7) : ppuRegRead l index p = none := by
  unfold ppuRegRead
  split
  · contradiction
  · contradiction
  · contradiction
  · rfl

theorem registerAddress_ofNat {k : Nat} (hk : k < 8) : registerAddress (BitVec.ofNat 3 k) = BitVec.ofNat 16 (0x2000 + k) := by
  apply BitVec.eq_of_toNat_eq
  simp [registerAddress, Nat.mod_eq_of_lt hk]

/-- R254: vblank, sprite-0 hit and sprite overflow weigh 128, 64 and 32; bits 4:0 are 0. -/
theorem Ppu.toNat_statusByte (p : Ppu) : p.statusByte.toNat =
    128 * carryNat p.vblank + 64 * carryNat p.sprite0Hit + 32 * carryNat p.spriteOverflow := by
  unfold Ppu.statusByte
  generalize p.vblank = v
  generalize p.sprite0Hit = hit
  generalize p.spriteOverflow = overflow
  revert v hit overflow
  decide

/-- R42: the address of $2007 is the low 14 bits of `v`. -/
theorem Ppu.dataAddress_eq (p : Ppu) : p.dataAddress = p.v.extractLsb' 0 14 := BitVec.setWidth_eq_extractLsb' (by decide)

/-! ## The reads of the window, by register index -/

/-- R254. -/
theorem memRead_status {s : State} {a : Word} (ht : s.target a = .ppu 2) :
    memRead a s = .ok s.ppu.statusByte { s with ppu := { s.ppu with vblank := false, w := false } } :=
  memRead_register ht rfl

/-- R255. -/
theorem memRead_oamData {s : State} {a : Word} (ht : s.target a = .ppu 4) :
    memRead a s = .ok (Mem.read s.ppu.oam s.ppu.oamAddr.toNat) s :=
  memRead_register ht rfl

/-- R256: `v` advances only when PPUDATA_READ_INCREMENT is true. -/
theorem memRead_vramData {s : State} {a : Word} (ht : s.target a = .ppu 7) :
    memRead a s = .ok (vramRead s.launch.mirroring s.ppu (s.ppu.v.extractLsb' 0 14))
      (if s.launch.ppudataReadIncrement then
        { s with ppu := { s.ppu with v := s.ppu.v + if s.ppu.ctrl.getLsbD 2 then 32 else 1 } } else s) := by
  rw [memRead_register ht rfl, Ppu.vramData, Ppu.dataAddress_eq, Ppu.afterDataRead]
  split
  · rfl
  · rfl

/-- R252, R341: the five indices without a read. -/
theorem memRead_writeOnly {s : State} {a : Word} {k : Nat} (ht : s.target a = .ppu (BitVec.ofNat 3 k)) (hk : k < 8)
    (h2 : k ≠ 2) (h4 : k ≠ 4) (h7 : k ≠ 7) :
    memRead a s = .raised (.invalidRegisterAccess .read (BitVec.ofNat 16 (0x2000 + k))) s := by
  have hn : (BitVec.ofNat 3 k).toNat = k := by simpa using hk
  have hr : ppuRegRead s.launch (BitVec.ofNat 3 k) s.ppu = none := ppuRegRead_none _ _ (by omega) (by omega) (by omega)
  rw [memRead_register_none ht hr, registerAddress_ofNat hk]

/-! ## The other rows of the decoder -/

theorem memRead_ram {s : State} {a : Word} (h : a.toNat ≤ s.launch.ramMirrorLast.toNat) :
    memRead a s = .ok (Mem.read s.ram (a.toNat % 2048)) s := by
  simp only [memRead, State.target, busTarget_ram h]

theorem memRead_oamDma {s : State} (hl : s.launch.ramMirrorLast.toNat < 0x4014) :
    memRead 0x4014 s = .raised (.invalidRegisterAccess .read 0x4014) s := by
  simp only [memRead, State.target, busTarget_oamDma hl]

theorem memRead_ext {s : State} {a : Word} (hl : s.launch.ramMirrorLast.toNat < a.toNat)
    (hw : a.toNat < 0x2000 ∨ 0x3FFF < a.toNat) (h : a ≠ 0x4014) : memRead a s = .ok (Mem.read s.ext a.toNat) s := by
  simp only [memRead, State.target, busTarget_ext hl hw h]

end Sys2Proof.Machine

namespace Sys2Proof

open Sys2Proof.Machine

/-- Settles O17, row by row of the decoder; inside the window by the register index, `State.target_window`. -/
theorem busRead : Obligations.BusRead := by
  intro a s
  refine ⟨memRead_ram, fun hl h1 h2 => ?window, ?dma, memRead_ext⟩
  case window =>
    have ht := State.target_window hl h1 h2
    refine ⟨fun hk => ?_, fun hk => ?_, fun hk => ?_, memRead_writeOnly ht (Nat.mod_lt _ (by decide))⟩
    · rw [hk] at ht
      exact ⟨_, memRead_status ht, Ppu.toNat_statusByte _⟩
    · rw [hk] at ht
      exact memRead_oamData ht
    · rw [hk] at ht
      exact memRead_vramData ht
  case dma =>
    rintro hl rfl
    exact memRead_oamDma hl

end Sys2Proof
end

section
/-!
PROOFS. The PPU address space (R81 to R85): the storage each region names, and read after write through the map.
-/
namespace Sys2Proof.Machine

/-! ## The regions -/

theorem vramCell_chr (m : Mirroring) {a : BitVec 14} (h : a.toNat < 0x2000) : vramCell m a = .chr a.toNat := by
  simp only [vramCell, if_pos h]

theorem vramCell_nt (m : Mirroring) {a : BitVec 14} (h1 : 0x2000 ≤ a.toNat) (h2 : a.toNat < 0x3F00) :
    vramCell m a = .nt (ntIndex m a.toNat) := by
  simp only [vramCell, if_neg (Nat.not_lt.mpr h1), if_pos h2]

theorem vramCell_pal (m : Mirroring) {a : BitVec 14} (h : 0x3F00 ≤ a.toNat) : vramCell m a = .pal (a.toNat % 32) := by
  have h1 : ¬ a.toNat < 0x2000 := by omega
  simp only [vramCell, if_neg h1, if_neg (Nat.not_lt.mpr h)]

/-! ## The folds of the nametables -/

/-- R82: vertical mirroring keeps the offset mod 2 KB. -/
theorem ntIndex_vertical (n : Nat) : ntIndex .vertical n = (n - 0x2000) % 2048 := by
  simp only [ntIndex]; omega

/-- R82: horizontal mirroring keeps 1 KB for each half of the 4 KB. -/
theorem ntIndex_horizontal {n : Nat} (h : n < 0x3000) :
    ntIndex .horizontal n = (n - 0x2000) / 2048 * 1024 + (n - 0x2000) % 1024 := by
  simp only [ntIndex]; omega

/-- R82: the nametable index depends on the address mod 0x1000 alone. -/
theorem ntIndex_sub_0x1000 (m : Mirroring) {n : Nat} (h : 0x3000 ≤ n) : ntIndex m (n - 0x1000) = ntIndex m n := by
  have hr : (n - 0x1000 - 0x2000) % 0x1000 = (n - 0x2000) % 0x1000 := by omega
  simp only [ntIndex, hr]

/-- The mirror of the nametables names the nametables' own storage. -/
theorem vramCell_ntMirror (m : Mirroring) {a : BitVec 14} (h1 : 0x3000 ≤ a.toNat) (h2 : a.toNat < 0x3F00) :
    vramCell m a = vramCell m (a - 0x1000) := by
  have hsub : (a - 0x1000).toNat = a.toNat - 0x1000 := by bv_omega
  rw [vramCell_nt m (by omega) h2, vramCell_nt m (by omega) (by omega), hsub, ntIndex_sub_0x1000 m h1]

/-! ## Read after write -/

/-- In the written memory by `Mem.read_write`; the other two memories are left alone. -/
theorem Ppu.readCell_writeCell (p : Ppu) (c c' : VramCell) (d : Byte) :
    (p.writeCell c d).readCell c' = if c' = c then d else p.readCell c' := by
  match c, c' with
  | .chr _, .chr _ | .nt _, .nt _ | .pal _, .pal _ => simp [Ppu.writeCell, Ppu.readCell, Mem.read_write]
  | .chr _, .nt _ | .chr _, .pal _ | .nt _, .chr _ | .nt _, .pal _ | .pal _, .chr _ | .pal _, .nt _ => rfl

/-- R84, R85: a byte reads back through every address of its storage, and no other byte changes. -/
theorem vramRead_vramWrite (m : Mirroring) (p : Ppu) (a b : BitVec 14) (d : Byte) :
    vramRead m (vramWrite m p a d) b = if vramCell m b = vramCell m a then d else vramRead m p b :=
  Ppu.readCell_writeCell p (vramCell m a) (vramCell m b) d

end Sys2Proof.Machine

namespace Sys2Proof

open Sys2Proof.Machine

/-- Settles O20: each region by its `vramCell` law, the folds by `ntIndex_vertical`, `ntIndex_horizontal` and
`vramCell_ntMirror`. -/
theorem ppuSpaceFolds : Obligations.PpuSpaceFolds := by
  intro m a
  refine ⟨vramCell_chr m, fun h1 h2 => ?nametables, vramCell_ntMirror m, vramCell_pal m,
    fun b d p => vramRead_vramWrite m p a b d⟩
  case nametables =>
    rw [vramCell_nt m h1 (by omega)]
    cases m with
    | vertical => exact congrArg VramCell.nt (ntIndex_vertical _)
    | horizontal => exact congrArg VramCell.nt (ntIndex_horizontal h2)

end Sys2Proof
end

section
/-!
PROOFS. Loads and register transfers (R150 to R152, R156 to R161): the shared body each row of the shape runs, and the state that
body ends in.
-/
namespace Sys2Proof.Machine

/-! ## The body each shape runs -/

/-- Row by row of the shape: the meaning of a load is `load` under its own opcode byte. -/
theorem exec_of_loadForm {i : Instr} {r : Reg} {src : Source} (h : loadForm i = some (r, src)) (s : State) :
    exec i s = (load i.opcode r src s).outcome := by
  unfold loadForm at h
  split at h <;> cases h <;> rfl

/-- Row by row of the shape: the meaning of a transfer is `transfer` of the source register, under its own opcode byte. -/
theorem exec_of_transferForm {i : Instr} {target source : Reg} (h : transferForm i = some (target, source)) (s : State) :
    exec i s = (transfer i.opcode target (s.reg source) s).outcome := by
  unfold transferForm at h
  split at h <;> cases h <;> rfl

theorem exec_tsx (s : State) : exec .tsx s = (transfer 0xBA .x s.sp s).outcome := rfl

theorem exec_txs (s : State) : exec .txs s = (retire 0x9A false 0 { s with sp := s.x }).outcome := rfl

end Sys2Proof.Machine

namespace Sys2Proof

open Sys2Proof.Machine

/-- Settles O23: the shape names the body, and `load_eq` is that body's next state where the operand can be read. -/
theorem loadResult : Obligations.LoadResult := by
  intro i r src s hform hreadable
  rw [exec_of_loadForm hform, load_eq hreadable, Res.outcome_ok]

/-- Settles O27: the four transfers and TSX share one body, whose next state is `transfer_eq`; TXS writes SP and no flag. -/
theorem transferResult : Obligations.TransferResult := by
  refine ⟨fun i target source s hform => ?transfer, fun s => ?tsx, fun s => ?txs⟩
  case transfer => rw [exec_of_transferForm hform, transfer_eq, Res.outcome_ok]
  case tsx => rw [exec_tsx, transfer_eq, Res.outcome_ok, State.setReg_x]
  case txs => rw [exec_txs, retire_eq, Res.outcome_ok]

end Sys2Proof
end

section
/-!
PROOFS. The stack instructions (R172 to R175): the push or pull each one runs, the byte it moves in numbers, and its standard cost.
-/
namespace Sys2Proof.Machine

/-! ## The meaning of each row -/

theorem exec_pha (s : State) : exec .pha s = ((push s.a s).bind fun _ s => retire 0x48 false 0 s).outcome := rfl

theorem exec_php (s : State) :
    exec .php s = ((push s.p.pushedBySoftware s).bind fun _ s => retire 0x08 false 0 s).outcome := rfl

theorem exec_pla (s : State) :
    exec .pla s = ((pull s).bind fun d s => retire 0x68 false 0 ((s.setReg .a d).setNZ d)).outcome := rfl

theorem exec_plp (s : State) :
    exec .plp s = ((pull s).bind fun d s => retire 0x28 false 0 { s with p := Flags.pulled d }).outcome := rfl

/-! ## The end of a push -/

/-- R170: a push followed by the instruction's end leaves the byte at 0x0100 + SP. -/
theorem outcome_push_retire (d op : Byte) (s : State) :
    ((push d s).bind fun _ s => retire op false 0 s).outcome =
      .next { pokeByte (BitVec.ofNat 16 (0x100 + s.sp.toNat)) d s with
        sp := s.sp - 1
        cyclesRemaining := s.cyclesRemaining + cost s.launch op false 0 } := by
  simp only [push_eq, Res.bind_ok, retire_eq, Res.outcome_ok, stackAddress_eq, pokeByte_cyclesRemaining, pokeByte_launch]

/-! ## The pulled byte -/

/-- R171: the first pull reads the stack page at SP + 1, counted mod 256 by SP's own width. -/
theorem State.stacked_one (s : State) : s.stacked 1 = s.byteAt (BitVec.ofNat 16 (0x100 + (s.sp.toNat + 1) % 256)) := by
  have hsp : (s.sp + 1).toNat = (s.sp.toNat + 1) % 256 := BitVec.toNat_add s.sp 1
  rw [State.stacked, stackAddress_eq, hsp]

/-! ## The standard cost -/

/-- R113: where the launch lists no row of its own and the standard row has no penalty, the cost is its base count. -/
theorem cost_of_standard_row {l : Launch} {op : Byte} {n : Nat} (h : l.cycleRows = [])
    (hrow : findCycles op standardCycles = some ⟨n, false, false⟩) (crossed : Bool) (extra : Nat) :
    cost l op crossed extra = n := by
  have hof : cyclesOf l op = ⟨n, false, false⟩ := by simp only [cyclesOf, h, findCycles, hrow, Option.getD_some]
  simp [cost, hof]

end Sys2Proof.Machine

namespace Sys2Proof

open Sys2Proof.Machine

/-- Settles O28: both rows end by `outcome_push_retire`; they differ in the byte pushed and the opcode. -/
theorem pushResult : Obligations.PushResult := by
  refine fun s => ⟨?pha, ?php, fun h => ⟨cost_of_standard_row h rfl false 0, cost_of_standard_row h rfl false 0⟩⟩
  case pha => rw [exec_pha, outcome_push_retire]
  case php => rw [exec_php, outcome_push_retire, Flags.pushedBySoftware]

/-- Settles O29: a pull never raises (`pull_eq`), its byte is `State.stacked_one`, and PLP's forced bits are `Flags.pulled_eq`. -/
theorem pullResult : Obligations.PullResult := by
  rintro s d rfl
  rw [← State.stacked_one]
  refine ⟨?pla, ?plp, fun h => ⟨cost_of_standard_row h rfl false 0, cost_of_standard_row h rfl false 0⟩⟩
  case pla => rw [exec_pla, pull_eq, Res.bind_ok, retire_eq, Res.outcome_ok]; rfl
  case plp => rw [exec_plp, pull_eq, Res.bind_ok, retire_eq, Res.outcome_ok, Flags.pulled_eq]

end Sys2Proof
end

section
/-!
PROOFS. Logic, BIT, add, subtract and compare (R180 to R185, R187 to R190): the shared body each row of the shape runs, and what
that body leaves in the words of the obligations: operations by name, sums and differences in numbers.
-/
namespace Sys2Proof.Machine

/-! ## The body each shape runs -/

/-- Row by row of the shape: AND, ORA and EOR are `logic` with the named operation, under their own opcode byte. -/
theorem exec_of_logicForm {i : Instr} {op : LogicOp} {src : Source} (h : logicForm i = some (op, src)) (s : State) :
    exec i s = (logic i.opcode op.apply src s).outcome := by
  unfold logicForm at h
  split at h <;> cases h <;> rfl

/-- Both rows of BIT are `bitTest`. -/
theorem exec_of_bitForm {i : Instr} {src : Source} (h : bitForm i = some src) (s : State) :
    exec i s = (bitTest i.opcode src s).outcome := by
  unfold bitForm at h
  split at h <;> cases h <;> rfl

/-- Row by row of the shape: ADC adds the operand as it is. -/
theorem exec_of_adcForm {i : Instr} {src : Source} (h : adcForm i = some src) (s : State) :
    exec i s = (addWithCarry i.opcode id src s).outcome := by
  unfold adcForm at h
  split at h <;> cases h <;> rfl

/-- Row by row of the shape: SBC adds the operand's one's complement. -/
theorem exec_of_sbcForm {i : Instr} {src : Source} (h : sbcForm i = some src) (s : State) :
    exec i s = (addWithCarry i.opcode sbcOperand src s).outcome := by
  unfold sbcForm at h
  split at h <;> cases h <;> rfl

/-- Row by row of the shape: CMP, CPX and CPY are `compare` of their register. -/
theorem exec_of_compareForm {i : Instr} {r : Reg} {src : Source} (h : compareForm i = some (r, src)) (s : State) :
    exec i s = (compare i.opcode r src s).outcome := by
  unfold compareForm at h
  split at h <;> cases h <;> rfl

/-! ## Sum, carry and difference in numbers -/

/-- R184: the result is the sum with carry, mod 256. -/
theorem adcResult_eq (a m : Byte) (c : Bool) : adcResult a m c = BitVec.ofNat 8 (a.toNat + m.toNat + carryNat c) := rfl

/-- R184: the carry says that the sum does not fit in a byte. -/
theorem adcCarry_eq (a m : Byte) (c : Bool) : adcCarry a m c = decide (255 < a.toNat + m.toNat + carryNat c) := rfl

/-- R187: N of a compare is bit 7 of the difference mod 256, not a signed comparison. -/
theorem getLsbD_seven_sub (d m : Byte) : (d - m).getLsbD 7 = decide (128 ≤ (256 + d.toNat - m.toNat) % 256) := by
  have hm : m.toNat < 256 := m.isLt
  have hdiff : (d - m).toNat = (256 + d.toNat - m.toNat) % 256 := by
    rw [BitVec.toNat_sub]
    omega
  rw [getLsbD_seven, hdiff]

end Sys2Proof.Machine

namespace Sys2Proof

open Sys2Proof.Machine

/-- Settles O30: the shape names the operation, and `logic_eq` is the next state where the operand can be read. -/
theorem logicResult : Obligations.LogicResult := by
  intro i op src s hform hreadable
  rw [exec_of_logicForm hform, logic_eq hreadable, Res.outcome_ok]

/-- Settles O31: both rows share one body, whose next state is `bitTest_eq`. -/
theorem bitResult : Obligations.BitResult := by
  intro i src s hform hreadable
  rw [exec_of_bitForm hform, bitTest_eq hreadable, Res.outcome_ok]

/-- Settles O32: the result and the carry are the sum's by definition; the overflow is `adcOverflow_eq`. -/
theorem adcResult : Obligations.AdcResult := by
  rintro i src s m r hform hreadable rfl rfl
  rw [exec_of_adcForm hform, addWithCarry_eq hreadable, Res.outcome_ok, id_eq, adcOverflow_eq, adcResult_eq, adcCarry_eq]

/-- Settles O33: adding the one's complement with carry is subtracting with borrow: `sbcResult_eq`, `sbcOverflow_eq` and
`sbcCarry_eq`. -/
theorem sbcResult : Obligations.SbcResult := by
  rintro i src s m r hform hreadable rfl rfl
  rw [exec_of_sbcForm hform, addWithCarry_eq hreadable, Res.outcome_ok, sbcOverflow_eq, sbcResult_eq, sbcCarry_eq]

/-- Settles O35: `compare_eq` gives C and Z; N of the difference is `getLsbD_seven_sub`. -/
theorem compareResult : Obligations.CompareResult := by
  rintro i r src s m hform hreadable rfl
  rw [exec_of_compareForm hform, compare_eq hreadable, Res.outcome_ok, getLsbD_seven_sub, beq_eq_decide]

end Sys2Proof
end

section
/-!
PROOFS. Increments, decrements, shifts and rotates (R134, R200 to R210): the shared body each row of the shape runs, the shifts in
numbers, and the standard cost of the register forms.
-/
namespace Sys2Proof.Machine

/-! ## The body each shape runs -/

/-- Row by row of the shape: INC is `modify` by one up, under its own opcode byte. -/
theorem exec_of_incForm {i : Instr} {m : Addr} (h : incForm i = some m) (s : State) :
    exec i s = (modify i.opcode (· + 1) m s).outcome := by
  unfold incForm at h
  split at h <;> cases h <;> rfl

/-- Row by row of the shape: DEC is `modify` by one down. -/
theorem exec_of_decForm {i : Instr} {m : Addr} (h : decForm i = some m) (s : State) :
    exec i s = (modify i.opcode (· - 1) m s).outcome := by
  unfold decForm at h
  split at h <;> cases h <;> rfl

/-- INX, INY, DEX and DEY are `modifyReg` of their register, in their direction. -/
theorem exec_of_stepRegForm {i : Instr} {q : Reg} {up : Bool} (h : stepRegForm i = some (q, up)) (s : State) :
    exec i s = (modifyReg i.opcode (fun d => if up then d + 1 else d - 1) q s).outcome := by
  unfold stepRegForm at h
  split at h <;> cases h <;> rfl

/-- The model's own function for a named shift or rotate (R207 to R210). -/
def ShiftOp.shifted : ShiftOp → Byte → Bool → Shifted
  | .asl => shiftAsl
  | .lsr => shiftLsr
  | .rol => shiftRol
  | .ror => shiftRor

/-- Row by row of the shape: the accumulator forms are `shift` of A by the named operation. -/
theorem exec_of_shiftAccForm {i : Instr} {op : ShiftOp} (h : shiftAccForm i = some op) (s : State) :
    exec i s = (shift i.opcode op.shifted .acc s).outcome := by
  unfold shiftAccForm at h
  split at h <;> cases h <;> rfl

/-- Row by row of the shape: the memory forms are `shift` of the operand by the named operation. -/
theorem exec_of_shiftMemForm {i : Instr} {op : ShiftOp} {m : Addr} (h : shiftMemForm i = some (op, m)) (s : State) :
    exec i s = (shift i.opcode op.shifted (.mem m) s).outcome := by
  unfold shiftMemForm at h
  split at h <;> cases h <;> rfl

/-! ## The shifts in numbers -/

/-- R207 to R210: shifting or rotating by one bit is doubling or halving, the carry the bit that leaves the operand. -/
theorem ShiftOp.shifted_eq (op : ShiftOp) (m : Byte) (c : Bool) : op.shifted m c = ⟨op.result m c, op.carry m⟩ := by
  cases op with
  | asl => exact shiftAsl_eq m c
  | lsr => exact shiftLsr_eq m c
  | rol => exact shiftRol_eq m c
  | ror => exact shiftRor_eq m c

/-! ## The standard cost -/

/-- R202, R203, R205, R206: each of the four standard rows is two cycles without a penalty. -/
theorem cost_of_stepRegForm {i : Instr} {q : Reg} {up : Bool} (h : stepRegForm i = some (q, up)) {l : Launch}
    (hl : l.cycleRows = []) : cost l i.opcode false 0 = 2 := by
  unfold stepRegForm at h
  split at h <;> cases h <;> exact cost_of_standard_row hl rfl false 0

end Sys2Proof.Machine

namespace Sys2Proof

open Sys2Proof.Machine

/-- Settles O36: both shapes share one body, whose next state is `modify_eq` where the operand can be read and written. -/
theorem incDecMemoryResult : Obligations.IncDecMemoryResult := by
  rintro i m s r (⟨hform, rfl⟩ | ⟨hform, rfl⟩) hreadable hwritable
  case inl => rw [exec_of_incForm hform, modify_eq hreadable hwritable, Res.outcome_ok]
  case inr => rw [exec_of_decForm hform, modify_eq hreadable hwritable, Res.outcome_ok]

/-- Settles O37: the four rows share one body, whose next state is `modifyReg_eq`; their cost is `cost_of_stepRegForm`. -/
theorem incDecRegisterResult : Obligations.IncDecRegisterResult := by
  rintro i q up s r hform rfl
  refine ⟨?result, cost_of_stepRegForm hform⟩
  case result => rw [exec_of_stepRegForm hform, modifyReg_eq, Res.outcome_ok]

/-- Settles O38: `shift_acc_eq` and `shift_mem_eq` give the next state over the model's bit operations, which are
`ShiftOp.result` and `ShiftOp.carry` by `ShiftOp.shifted_eq`. -/
theorem shiftResult : Obligations.ShiftResult := by
  refine ⟨fun i op s hform => ?accumulator, fun i op m s r hform hreadable hwritable hr => ?memory⟩
  case accumulator => rw [exec_of_shiftAccForm hform, shift_acc_eq, Res.outcome_ok, ShiftOp.shifted_eq]
  case memory =>
    rw [exec_of_shiftMemForm hform, shift_mem_eq hreadable hwritable, Res.outcome_ok, ShiftOp.shifted_eq, hr]

end Sys2Proof
end

section
/-!
PROOFS. Jumps, subroutines, BRK, RTI and the branches (R220 to R233): the body each row runs, the two reads of an indirect jump,
the bytes JSR and BRK push, and the standard cost of the branches. The other costs are rows near the end of the standard table,
which the kernel looks up.
-/
namespace Sys2Proof.Machine

/-! ## The meaning of each row -/

theorem exec_jmpAbs (a : Word) (s : State) : exec (.jmpAbs a) s = (retire 0x4C false 0 { s with pc := a }).outcome := rfl

theorem exec_jmpInd (a : Word) (s : State) : exec (.jmpInd a) s =
    ((resolveIndirect a s).bind fun target s => retire 0x6C false 0 { s with pc := target }).outcome := rfl

theorem exec_jsr (a : Word) (s : State) : exec (.jsr a) s =
    ((push16 (s.pc - 1) s).bind fun _ s => retire 0x20 false 0 { s with pc := a }).outcome := rfl

theorem exec_rts (s : State) :
    exec .rts s = ((pull16 s).bind fun w s => retire 0x60 false 0 { s with pc := w + 1 }).outcome := rfl

theorem exec_brk (s : State) : exec .brk s =
    ((enterTrap (s.pc + 1) s.p.pushedBySoftware brkVector { s with pc := s.pc + 1 }).bind
      fun _ s => retire 0x00 false 0 s).outcome := rfl

theorem exec_rti (s : State) : exec .rti s = ((returnFromTrap s).bind fun _ s => retire 0x40 false 0 s).outcome := rfl

/-- Row by row of the shape: the eight branches are `branch` on their condition, under their own opcode byte. -/
theorem exec_of_branchForm {i : Instr} {s : State} {taken : Bool} {d : Byte} (h : branchForm s.p i = some (taken, d)) :
    exec i s = (branch i.opcode taken d s).outcome := by
  unfold branchForm at h
  split at h <;> cases h <;> rfl

/-! ## The indirect jump -/

/-- R143: the low byte is read first, the high byte after it, both with their effects (R73). -/
theorem resolveIndirect_readable {ptr : Word} {s : State} (hlow : s.readable ptr = true)
    (hhigh : s.readable (pointerHigh ptr) = true) :
    resolveIndirect ptr s =
      .ok (leWord (s.readByte ptr) ((s.afterRead ptr).readByte (pointerHigh ptr)))
        ((s.afterRead ptr).afterRead (pointerHigh ptr)) := by
  have hhigh' : (s.afterRead ptr).readable (pointerHigh ptr) = true := (State.readable_afterRead s ptr _).trans hhigh
  rw [resolveIndirect, memRead_readable hlow, Res.bind_ok, ← pointerHigh, memRead_readable hhigh', Res.bind_ok]

/-! ## The pushed bytes -/

/-- R171: a pushed word lies at SP and SP - 1, its high byte first, and SP ends two lower. -/
theorem State.pushed_two (s : State) (first second : Byte) : s.pushed [first, second] =
    { pokeByte (stackAddress (s.sp - 1)) second (pokeByte (stackAddress s.sp) first s) with sp := s.sp - 2 } := by
  have hsp : s.sp - 1 - 1 = s.sp - 2 := by rw [BitVec.sub_sub]; rfl
  simp only [State.pushed, pokeByte_with_sp, hsp]

/-- R223: BRK skips its padding byte, which no push looks at, and then takes the trap through 0xFFFE. -/
theorem enterTrap_brk (s : State) :
    enterTrap (s.pc + 1) s.p.pushedBySoftware brkVector { s with pc := s.pc + 1 } =
      .ok () { s.pushed [hiByte (s.pc + 1), loByte (s.pc + 1), s.p.toByte ||| 0x30] with
        p := { s.p with i := true }
        pc := (s.pushed [hiByte (s.pc + 1), loByte (s.pc + 1), s.p.toByte ||| 0x30]).wordAt 0xFFFE } := by
  rw [enterTrap_eq _ _ _ _ (by decide) (by decide), State.pushed_with_pc]
  rfl

/-! ## The standard cost -/

/-- R225: each of the eight standard rows is two cycles and the branch's own. -/
theorem cost_of_branchForm {p : Flags} {i : Instr} {taken : Bool} {d : Byte} (h : branchForm p i = some (taken, d))
    {l : Launch} (hl : l.cycleRows = []) (extra : Nat) : cost l i.opcode false extra = 2 + extra := by
  have hof : cyclesOf l i.opcode = ⟨2, false, true⟩ := by
    rw [cyclesOf, hl]
    unfold branchForm at h
    split at h <;> cases h <;> rfl
  simp [cost, hof]

end Sys2Proof.Machine

namespace Sys2Proof

open Sys2Proof.Machine

/-- Settles O40: the pointer's second address is `leWord_pageWrap`, and its two reads are `resolveIndirect_readable`. -/
theorem jumpResult : Obligations.JumpResult := by
  rintro a high s rfl
  rw [← leWord_pageWrap, ← pointerHigh]
  refine ⟨?absolute, fun hlow hhigh => ?indirect,
    fun h => ⟨cost_of_standard_row h (by decide +kernel) false 0, cost_of_standard_row h (by decide +kernel) false 0⟩⟩
  case absolute => rw [exec_jmpAbs, retire_eq, Res.outcome_ok]
  case indirect =>
    simp only [exec_jmpInd, resolveIndirect_readable hlow hhigh, Res.bind_ok, retire_eq, Res.outcome_ok,
      State.afterRead_cyclesRemaining, State.afterRead_launch]

/-- Settles O41: the word pushed is PC - 1, and its bytes lie as `State.pushed_two` says. -/
theorem jsrResult : Obligations.JsrResult := by
  refine fun a s => ⟨?_, fun h => cost_of_standard_row h (by decide +kernel) false 0⟩
  simp only [exec_jsr, push16_eq, Res.bind_ok, retire_eq, Res.outcome_ok, State.pushed_two, pokeByte_cyclesRemaining,
    pokeByte_launch]

/-- Settles O42: `pull16_eq` gives the word, and RTS adds one to it. -/
theorem rtsResult : Obligations.RtsResult := by
  refine fun s => ⟨?_, fun h => cost_of_standard_row h (by decide +kernel) false 0⟩
  rw [exec_rts, pull16_eq, Res.bind_ok, retire_eq, Res.outcome_ok, State.stacked, State.stacked]

/-- Settles O43: the trap BRK takes never raises and ends as `enterTrap_brk` says. -/
theorem brkResult : Obligations.BrkResult := by
  refine fun s => ⟨?_, fun h => cost_of_standard_row h (by decide +kernel) false 0⟩
  simp only [exec_brk, enterTrap_brk, Res.bind_ok, retire_eq, Res.outcome_ok, State.cyclesRemaining_pushed,
    State.launch_pushed]

/-- Settles O44: `returnFromTrap_eq` gives the three pulls, and the forced bits of P are `Flags.pulled_eq`. -/
theorem rtiResult : Obligations.RtiResult := by
  rintro s d rfl
  refine ⟨?_, fun h => cost_of_standard_row h (by decide +kernel) false 0⟩
  simp only [exec_rti, returnFromTrap_eq, Res.bind_ok, retire_eq, Res.outcome_ok, Flags.pulled_eq, State.stacked]

/-- Settles O46: the eight rows share one body, `branch_eq`; its target and extra cycles in numbers are `branchTarget_eq` and
`branchExtra_eq`. -/
theorem branchResult : Obligations.BranchResult := by
  rintro i taken d s target hform rfl
  refine ⟨?_, cost_of_branchForm hform⟩
  rw [exec_of_branchForm hform, branch_eq, Res.outcome_ok, branchExtra_eq, branchTarget_eq]

end Sys2Proof
end

section
/-!
PROOFS. The flag instructions and NOP (R240 to R247): the end of an instruction is the whole body of each row, and its standard
cost is two cycles. The kernel looks the rows up, most of which lie near the end of the standard table.
-/
namespace Sys2Proof.Machine

/-! ## The meaning of each row -/

/-- Row by row of the shape: a flag instruction puts the named flags in place of P and ends, under its own opcode byte. -/
theorem exec_of_flagForm {i : Instr} {s : State} {p : Flags} (h : flagForm s.p i = some p) :
    exec i s = (retire i.opcode false 0 { s with p := p }).outcome := by
  unfold flagForm at h
  split at h <;> cases h <;> rfl

theorem exec_nop (s : State) : exec .nop s = (retire 0xEA false 0 s).outcome := rfl

/-! ## The standard cost -/

/-- R240 to R246: each of the seven standard rows is two cycles without a penalty. -/
theorem cost_of_flagForm {p q : Flags} {i : Instr} (h : flagForm p i = some q) {l : Launch} (hl : l.cycleRows = []) :
    cost l i.opcode false 0 = 2 := by
  have hrow : findCycles i.opcode standardCycles = some ⟨2, false, false⟩ := by
    unfold flagForm at h
    split at h <;> cases h <;> decide +kernel
  exact cost_of_standard_row hl hrow false 0

end Sys2Proof.Machine

namespace Sys2Proof

open Sys2Proof.Machine

/-- Settles O47: each row ends at once by `retire_eq`, a flag instruction on the flags of its shape (`exec_of_flagForm`) and NOP
on the state it found; the seven costs are `cost_of_flagForm`. -/
theorem flagAndNopResult : Obligations.FlagAndNopResult := by
  refine ⟨fun i p s hform => ⟨?flag, cost_of_flagForm hform⟩, fun s => ⟨?nop, fun hl => ?nopCost⟩⟩
  case flag => rw [exec_of_flagForm hform, retire_eq, Res.outcome_ok]
  case nop => rw [exec_nop, retire_eq, Res.outcome_ok]
  case nopCost => exact cost_of_standard_row hl (by decide +kernel) false 0

end Sys2Proof
end

section
/-!
PROOFS. The CPU write of a PPU register (R251, R257 to R263): a masked update of `t` is the replacement of one field, or of two,
in a vector cut into fields (`maskOr_field` and its variants); what each register leaves follows field by field.
-/
namespace Sys2Proof.Machine

/-! ## Fields of a vector -/

section
variable {g h k l : Nat}

theorem extractLsb'_append_append_self (t : BitVec (h + k + l)) :
    t.extractLsb' (k + l) h ++ t.extractLsb' l k ++ t.extractLsb' 0 l = t := by
  rw [BitVec.extractLsb'_append_extractLsb'_eq_extractLsb' (Nat.add_comm k l), BitVec.extractLsb'_append_extractLsb']

theorem setWidth_eq_zero_append (f : BitVec k) : f.setWidth (h + k) = 0#h ++ f := by
  rw [← BitVec.setWidth_eq (0#h ++ f), BitVec.setWidth_append_eq_shiftLeft_setWidth_or, BitVec.setWidth_zero,
    BitVec.zero_shiftLeft, BitVec.zero_or]

/-- A field shifted to its place stands between zeros. -/
theorem setWidth_shiftLeft_eq_append (f : BitVec k) : f.setWidth (h + k + l) <<< l = 0#h ++ f ++ 0#l := by
  rw [← BitVec.setWidth_eq (0#h ++ f ++ 0#l)]
  simp only [BitVec.setWidth_append_eq_shiftLeft_setWidth_or, BitVec.setWidth_zero, BitVec.zero_shiftLeft, BitVec.zero_or,
    BitVec.or_zero]

theorem maskOr_lowField (t : BitVec (h + k)) (f : BitVec k) :
    t &&& (BitVec.allOnes h ++ 0#k) ||| f.setWidth (h + k) = t.extractLsb' k h ++ f := by
  conv_lhs => rw [← BitVec.extractLsb'_append_extractLsb' (x := t), setWidth_eq_zero_append]
  simp only [BitVec.and_append, BitVec.or_append, BitVec.and_zero, BitVec.and_allOnes, BitVec.zero_or, BitVec.or_zero]

/-- The bits above the field go through a mask of their own. -/
theorem maskOr_field (t : BitVec (h + k + l)) (mask : BitVec h) (f : BitVec k) :
    t &&& (mask ++ 0#k ++ BitVec.allOnes l) ||| f.setWidth (h + k + l) <<< l =
      (t.extractLsb' (k + l) h &&& mask) ++ f ++ t.extractLsb' 0 l := by
  conv_lhs => rw [← extractLsb'_append_append_self t, setWidth_shiftLeft_eq_append]
  simp [BitVec.and_append, BitVec.or_append]

/-- The lower field is `maskOr_field`; the bits above it are the cleared upper field and the kept bits between the two. -/
theorem maskOr_twoFields (t : BitVec (g + h + k + l)) (x : BitVec g) (y : BitVec k) :
    t &&& (0#g ++ BitVec.allOnes h ++ 0#k ++ BitVec.allOnes l) ||| x.setWidth (g + h + k + l) <<< (h + k + l) |||
      y.setWidth (g + h + k + l) <<< l = x ++ t.extractLsb' (k + l) h ++ y ++ t.extractLsb' 0 l := by
  have hx : x.setWidth (g + h + k + l) <<< (h + k + l) = x ++ 0#h ++ 0#k ++ 0#l := by
    rw [← BitVec.setWidth_eq (x ++ 0#h ++ 0#k ++ 0#l)]
    simp only [BitVec.setWidth_append_eq_shiftLeft_setWidth_or, BitVec.setWidth_zero, BitVec.or_zero, BitVec.shiftLeft_add]
  have hupper : t.extractLsb' (k + l) (g + h) = t.extractLsb' (h + k + l) g ++ t.extractLsb' (k + l) h :=
    (BitVec.extractLsb'_append_extractLsb'_eq_extractLsb' (by omega)).symm
  rw [BitVec.or_assoc, BitVec.or_comm (x.setWidth _ <<< _), ← BitVec.or_assoc, maskOr_field, hx, hupper]
  simp [BitVec.and_append, BitVec.or_append]

theorem add_ofNat_eq_ofNat_mod (v : BitVec k) (n : Nat) :
    v + BitVec.ofNat k n = BitVec.ofNat k ((v.toNat + n) % 2 ^ k) := by
  apply BitVec.eq_of_toNat_eq
  simp

end

/-! ## The fields of `t` -/

/-- R257: `t[11:10]`. -/
theorem maskOr_nametable (t : BitVec 15) (f : BitVec 2) :
    t &&& (0x73FF : BitVec 15) ||| f.setWidth 15 <<< 10 = t.extractLsb' 12 3 ++ f ++ t.extractLsb' 0 10 :=
  (maskOr_field (h := 3) (l := 10) t (BitVec.allOnes 3) f).trans (by rw [BitVec.and_allOnes])

/-- R261: `t[4:0]`. -/
theorem maskOr_coarseX (t : BitVec 15) (f : BitVec 5) : t &&& (0x7FE0 : BitVec 15) ||| f.setWidth 15 = t.extractLsb' 5 10 ++ f :=
  maskOr_lowField (h := 10) t f

/-- R261: `t[14:12]` and `t[9:5]`. -/
theorem maskOr_fineY_coarseY (t : BitVec 15) (x : BitVec 3) (y : BitVec 5) :
    t &&& (0x0C1F : BitVec 15) ||| x.setWidth 15 <<< 12 ||| y.setWidth 15 <<< 5 =
      x ++ t.extractLsb' 10 2 ++ y ++ t.extractLsb' 0 5 :=
  maskOr_twoFields (h := 2) (l := 5) t x y

/-- R262: `t[13:8]`, and `t[14]` cleared. -/
theorem maskOr_highAddress (t : BitVec 15) (f : BitVec 6) :
    t &&& (0x00FF : BitVec 15) ||| f.setWidth 15 <<< 8 = (0 : BitVec 1) ++ f ++ t.extractLsb' 0 8 :=
  (maskOr_field (h := 1) (l := 8) t 0#1 f).trans (by rw [BitVec.and_zero]; rfl)

/-- R262: `t[7:0]`. -/
theorem maskOr_lowAddress (t : BitVec 15) (d : Byte) : t &&& (0x7F00 : BitVec 15) ||| d.setWidth 15 = t.extractLsb' 8 7 ++ d :=
  maskOr_lowField (h := 7) t d

/-! ## What each register leaves of the PPU -/

theorem Ppu.writeCtrl_eq (p : Ppu) (d : Byte) : p.writeCtrl d = { p with
    ctrl := d
    t := p.t.extractLsb' 12 3 ++ d.extractLsb' 0 2 ++ p.t.extractLsb' 0 10 } := by
  rw [Ppu.writeCtrl]
  congr 1
  exact maskOr_nametable p.t _

theorem Ppu.writeOamData_eq (p : Ppu) (d : Byte) : p.writeOamData d = { p with
    oam := Mem.write p.oam p.oamAddr.toNat d
    oamAddr := BitVec.ofNat 8 ((p.oamAddr.toNat + 1) % 256) } := by
  rw [Ppu.writeOamData]
  congr 1
  exact add_ofNat_eq_ofNat_mod p.oamAddr 1

theorem Ppu.writeScroll_first {p : Ppu} (d : Byte) (hw : p.w = false) : p.writeScroll d = { p with
    t := p.t.extractLsb' 5 10 ++ d.extractLsb' 3 5
    fineX := d.extractLsb' 0 3
    w := true } := by
  rw [Ppu.writeScroll, if_neg (Bool.eq_false_iff.mp hw)]
  congr 1
  exact maskOr_coarseX p.t _

theorem Ppu.writeScroll_second {p : Ppu} (d : Byte) (hw : p.w = true) : p.writeScroll d = { p with
    t := d.extractLsb' 0 3 ++ p.t.extractLsb' 10 2 ++ d.extractLsb' 3 5 ++ p.t.extractLsb' 0 5
    w := false } := by
  rw [Ppu.writeScroll, if_pos hw]
  congr 1
  exact maskOr_fineY_coarseY p.t _ _

theorem Ppu.writeAddr_first {p : Ppu} (d : Byte) (hw : p.w = false) : p.writeAddr d = { p with
    t := (0 : BitVec 1) ++ d.extractLsb' 0 6 ++ p.t.extractLsb' 0 8
    w := true } := by
  rw [Ppu.writeAddr, if_neg (Bool.eq_false_iff.mp hw)]
  congr 1
  exact maskOr_highAddress p.t _

theorem Ppu.writeAddr_second {p : Ppu} (d : Byte) (hw : p.w = true) : p.writeAddr d = { p with
    t := p.t.extractLsb' 8 7 ++ d
    v := p.t.extractLsb' 8 7 ++ d
    w := false } := by
  rw [Ppu.writeAddr, if_pos hw]
  congr 1
  · exact maskOr_lowAddress p.t d
  · exact maskOr_lowAddress p.t d

@[simp] theorem vramWrite_v (m : Mirroring) (p : Ppu) (a : BitVec 14) (d : Byte) : (vramWrite m p a d).v = p.v := by
  unfold vramWrite
  cases vramCell m a <;> rfl

@[simp] theorem vramWrite_ctrl (m : Mirroring) (p : Ppu) (a : BitVec 14) (d : Byte) : (vramWrite m p a d).ctrl = p.ctrl := by
  unfold vramWrite
  cases vramCell m a <;> rfl

theorem Ppu.advanceV_eq (p : Ppu) : p.advanceV = { p with
    v := BitVec.ofNat 15 ((p.v.toNat + if p.ctrl.getLsbD 2 then 32 else 1) % 32768) } := by
  rw [Ppu.advanceV, Ppu.increment]
  congr 1
  split
  · exact add_ofNat_eq_ofNat_mod p.v 32
  · exact add_ofNat_eq_ofNat_mod p.v 1

theorem Ppu.writeData_eq (m : Mirroring) (p : Ppu) (d : Byte) : p.writeData m d =
    { vramWrite m p (p.v.extractLsb' 0 14) d with
      v := BitVec.ofNat 15 ((p.v.toNat + if p.ctrl.getLsbD 2 then 32 else 1) % 32768) } := by
  rw [Ppu.writeData, Ppu.dataAddress_eq, Ppu.advanceV_eq]
  simp only [vramWrite_v, vramWrite_ctrl]

/-! ## The write through the window -/

/-- A register that has a write leaves the PPU it names (R69). -/
theorem memWrite_register {s : State} {a : Word} {d : Byte} {index : BitVec 3} {p : Ppu} (ht : s.target a = .ppu index)
    (hw : ppuRegWrite s.launch index d s.ppu = some p) : memWrite a d s = .ok () { s with ppu := p } := by
  simp only [memWrite, ht, hw]

end Sys2Proof.Machine

namespace Sys2Proof

open Sys2Proof.Machine

/-- Settles O52: `memWrite_register` names the body of each register, whose law gives the bit fields of what it leaves. -/
theorem ppuRegisterWrites : Obligations.PpuRegisterWrites := by
  intro a d s
  refine ⟨fun ht => ?ctrl, fun ht => memWrite_register ht rfl, fun ht => memWrite_register ht rfl, fun ht => ?oamData,
    fun ht hw => ?scrollFirst, fun ht hw => ?scrollSecond, fun ht hw => ?addrFirst, fun ht hw => ?addrSecond, fun ht => ?data⟩
  case ctrl => rw [memWrite_register ht rfl, Ppu.writeCtrl_eq]
  case oamData => rw [memWrite_register ht rfl, Ppu.writeOamData_eq]
  case scrollFirst => rw [memWrite_register ht rfl, Ppu.writeScroll_first d hw]
  case scrollSecond => rw [memWrite_register ht rfl, Ppu.writeScroll_second d hw]
  case addrFirst => rw [memWrite_register ht rfl, Ppu.writeAddr_first d hw]
  case addrSecond => rw [memWrite_register ht rfl, Ppu.writeAddr_second d hw]
  case data => rw [memWrite_register ht rfl, Ppu.writeData_eq]

end Sys2Proof
end

section
/-!
PROOFS. What one PPU cycle shows outside the pipeline (R280, R284, R285, R299, R300): the events and what they leave, and the
pixel it stores with rendering enabled: where a stored colour lies in the frame buffer, and which palette entry gives it.
-/
namespace Sys2Proof.Machine

/-! ## The events -/

/-- R32, R284: the NMI is the one output to the CPU. -/
theorem ppuCycle_nmiPending (s : State) : (ppuCycle s).nmiPending =
    (s.nmiPending || (decide (s.ppu.scanline = 241 ∧ s.ppu.cycle = 1) && s.ppu.ctrl.getLsbD 7)) := by
  rw [ppuCycle_eq, Ppu.nmiEnable]

/-- R285, R305: with the oracle `never`, the events alone move the sprite bits. -/
theorem Ppu.next_spriteBits_of_never {l : Launch} (h : l.spriteOracle = .never) (n : Nat) (p : Ppu) :
    (p.next l n).sprite0Hit = p.afterEvents.sprite0Hit ∧
      (p.next l n).spriteOverflow = p.afterEvents.spriteOverflow :=
  Ppu.rendered_never h n p.afterEvents

/-! ## The frame buffer after a cycle -/

theorem visiblePixel_eq_true_iff {scanline cycle : Nat} :
    visiblePixel scanline cycle = true ↔ scanline ≤ 239 ∧ 1 ≤ cycle ∧ cycle ≤ 256 := by
  simp only [visiblePixel, Bool.and_eq_true, decide_eq_true_eq, and_assoc]

theorem renderLine_of_visiblePixel {scanline cycle : Nat} (h : visiblePixel scanline cycle = true) :
    renderLine scanline = true := by
  obtain ⟨hline, -, -⟩ := visiblePixel_eq_true_iff.mp h
  simp [renderLine, hline]

/-- R280, R299: with rendering enabled a whole cycle stores the pixel of a visible position and no other; off the render lines,
where the renderer does not run, no position is visible. -/
theorem Ppu.next_fb_of_renderingEnabled (l : Launch) (n : Nat) {p : Ppu} (he : p.renderingEnabled = true) :
    (p.next l n).fb = (whenever (visiblePixel p.scanline p.cycle) (Ppu.emitPixel l.mirroring) p).fb := by
  by_cases hl : renderLine p.scanline = true
  · obtain ⟨_, _, _, hnext⟩ := Ppu.next_enabled l n hl he
    rw [hnext, Ppu.renderEnabled_fb]
  · have hv : ¬ visiblePixel p.scanline p.cycle = true := fun hv => hl (renderLine_of_visiblePixel hv)
    have hidle : p.afterEvents.rendered l n = p.afterEvents := if_neg hl
    rw [Ppu.next, hidle, whenever, if_neg hv]
    rfl

/-- Distinct pixels of the picture have distinct indices (R54). -/
theorem fbIndex_inj {row row' column column' : Nat} (h : column ≤ 255) (h' : column' ≤ 255) :
    fbIndex row column = fbIndex row' column' ↔ row = row' ∧ column = column' := by
  unfold fbIndex
  omega

/-- The pixel stored at a visible position is the one at its row and column `cycle - 1`, and every other is left (R299, R301). -/
theorem Ppu.read_whenever_emit (p : Ppu) (d : BitVec 6) {row column : Nat} (hrow : row ≤ 239) (hcolumn : column ≤ 255) :
    Mem.read (whenever (visiblePixel p.scanline p.cycle) (fun q => q.emit d) p).fb (fbIndex row column) =
      if p.scanline = row ∧ p.cycle = column + 1 then d else Mem.read p.fb (fbIndex row column) := by
  unfold whenever
  split
  case isTrue hv =>
    obtain ⟨-, hfirst, hlast⟩ := visiblePixel_eq_true_iff.mp hv
    have hhere : fbIndex row column = fbIndex p.scanline (p.cycle - 1) ↔ p.scanline = row ∧ p.cycle = column + 1 := by
      rw [fbIndex_inj hcolumn (by omega)]
      omega
    simp only [Ppu.emit, Mem.read_write, hhere]
  case isFalse hv =>
    rw [visiblePixel_eq_true_iff] at hv
    rw [if_neg (by omega)]

/-! ## The colour in numbers -/

theorem toNat_twoBits (hi lo : Bool) : (twoBits hi lo).toNat = 2 * carryNat hi + carryNat lo := by
  cases hi <;> cases lo <;> rfl

/-- R299: the pixel value at the tap that fine X picks. -/
theorem Ppu.toNat_pixel (p : Ppu) : p.pixel.toNat =
    if p.mask.getLsbD 3 then
      2 * carryNat (p.bgHi.getLsbD (15 - p.fineX.toNat)) + carryNat (p.bgLo.getLsbD (15 - p.fineX.toNat)) else 0 := by
  rw [Ppu.pixel, Ppu.bgEnable, apply_ite BitVec.toNat, toNat_twoBits]
  rfl

/-- R299: the palette number at the tap that fine X picks. -/
theorem Ppu.toNat_pixelPalette (p : Ppu) : p.pixelPalette.toNat =
    2 * carryNat (p.atHi.getLsbD (7 - p.fineX.toNat)) + carryNat (p.atLo.getLsbD (7 - p.fineX.toNat)) :=
  toNat_twoBits _ _

/-- R81: entry k of palette RAM is read at the address 0x3F00 + k. -/
theorem vramRead_pal (m : Mirroring) (p : Ppu) {a : BitVec 14} {k : Nat} (ha : a.toNat = 0x3F00 + k) (hk : k < 32) :
    vramRead m p a = Mem.read p.pal k := by
  have hmod : (0x3F00 + k) % 32 = k := by omega
  rw [vramRead, vramCell_pal m (by omega), Ppu.readCell, ha, hmod]

/-- R300: the address of a colour that is not the backdrop. -/
theorem toNat_colourAddress (pal px : BitVec 2) :
    (0x3F00 + (pal.setWidth 14 <<< 2) + px.setWidth 14 : BitVec 14).toNat = 0x3F00 + (4 * pal.toNat + px.toNat) := by
  have hpal := pal.isLt
  have hpx := px.isLt
  simp only [BitVec.toNat_add, BitVec.toNat_shiftLeft, BitVec.toNat_setWidth, BitVec.natCast_eq_ofNat,
    BitVec.toNat_ofNat, Nat.shiftLeft_eq]
  omega

/-- R300: value 0 shows entry 0 whatever the palette, any other value the palette's entry of that number. -/
theorem colour_eq (m : Mirroring) (p : Ppu) (pal px : BitVec 2) : colour m p pal px =
    (Mem.read p.pal (if px.toNat = 0 then 0 else 4 * pal.toNat + px.toNat)).extractLsb' 0 6 := by
  have hzero : px = 0 ↔ px.toNat = 0 := BitVec.toNat_eq
  rw [colour, backdrop, BitVec.setWidth_eq_extractLsb' (by decide), BitVec.setWidth_eq_extractLsb' (by decide)]
  by_cases h : px = 0
  · rw [if_pos h, if_pos (hzero.mp h), vramRead_pal m p (k := 0) rfl (by decide)]
  · rw [if_neg h, if_neg (mt hzero.mpr h), vramRead_pal m p (toNat_colourAddress pal px) (by omega)]

end Sys2Proof.Machine

namespace Sys2Proof

open Sys2Proof.Machine

/-- Settles O54: `Ppu.next_frame` names every field of the PPU that a cycle may change; the events set vblank, and without draws
of the oracle the sprite bits (`Ppu.next_spriteBits_of_never`). -/
theorem ppuCycleEvents : Obligations.PpuCycleEvents := by
  intro s
  obtain ⟨_, _, _, _, _, _, _, _, _, _, _, _, _, _, hnext⟩ := Ppu.next_frame s.launch s.spriteDraws s.ppu
  refine ⟨?cpu, ?kept, ppuCycle_nmiPending s, ?vblank, fun h => ?sprite⟩
  case cpu => simp only [ppuCycle_a, ppuCycle_x, ppuCycle_y, ppuCycle_sp, ppuCycle_pc, ppuCycle_p,
    ppuCycle_cyclesRemaining, ppuCycle_fault, ppuCycle_ram, ppuCycle_ext, ppuCycle_launch, and_self]
  case kept => simp only [ppuCycle_ppu, hnext, and_self]
  case vblank => rw [ppuCycle_ppu, hnext, Ppu.afterEvents]
  case sprite =>
    rw [ppuCycle_ppu]
    exact Ppu.next_spriteBits_of_never h _ _

/-- Settles O56: `Ppu.next_fb_of_renderingEnabled` says what is stored, `Ppu.read_whenever_emit` where it is read back, and
`colour_eq` which entry of palette RAM it is. -/
theorem pixelEmitted : Obligations.PixelEmitted := by
  rintro s x px pal he rfl hpx hpal row column hrow hcolumn
  rw [← Ppu.toNat_pixel] at hpx
  rw [← Ppu.toNat_pixelPalette] at hpal
  rw [State.framePixel, ppuCycle_ppu, Ppu.next_fb_of_renderingEnabled _ _ he, hpx, hpal,
    ← colour_eq s.launch.mirroring]
  exact Ppu.read_whenever_emit _ _ hrow hcolumn

end Sys2Proof
end

section
/-!
PROOFS. Reset and power-up (R323, R332): the reset vector is read without effect, so CpuReset never raises; where the vector
lies in `EXT` it is the launch image's own word.
-/
namespace Sys2Proof.Machine

/-- R65, R66: the byte of an address that selects no other row is the byte of `EXT`. -/
theorem State.byteAt_ext {s : State} {a : Word} (hl : s.launch.ramMirrorLast.toNat < a.toNat)
    (hw : a.toNat < 0x2000 ∨ 0x3FFF < a.toNat) (h : a ≠ 0x4014) : s.byteAt a = Mem.read s.ext a.toNat := by
  simp only [State.byteAt, State.peek, State.target, busTarget_ext hl hw h, Option.getD_some]

/-- R332: CpuReset never raises. -/
theorem cpuReset_eq (s : State) : cpuReset s = .ok () { s with
    sp := 0xFD
    p := Flags.ofByte 0x24
    pc := s.wordAt resetVector
    nmiPending := false
    cyclesRemaining := s.launch.resetCycles } := by
  have hlow (t : State) : t.plain resetVector = true := t.plain_vector _ (by decide)
  have hhigh (t : State) : t.plain (resetVector + 1) = true := t.plain_vector _ (by decide)
  rw [cpuReset, memRead16_plain (hlow _) (hhigh _), Res.bind_ok]
  rfl

/-- R332, R360: a reset vector in `EXT` is the little-endian word of its two bytes there. -/
theorem State.wordAt_resetVector_ext {s : State} (hl : s.launch.ramMirrorLast.toNat < 0xFFFC) :
    s.wordAt resetVector = leWord (Mem.read s.ext 0xFFFC) (Mem.read s.ext 0xFFFD) := by
  have hlow : s.byteAt resetVector = Mem.read s.ext 0xFFFC := State.byteAt_ext hl (.inr (by decide)) (by decide)
  have hhigh : s.byteAt (resetVector + 1) = Mem.read s.ext 0xFFFD :=
    State.byteAt_ext (Nat.lt_succ_of_lt hl) (.inr (by decide)) (by decide)
  rw [State.wordAt, hlow, hhigh]

end Sys2Proof.Machine

namespace Sys2Proof

open Sys2Proof.Machine

/-- Settles O16: CpuReset is `cpuReset_eq`; `powerUp()` is CpuReset of the machine after `Clear`, whose `EXT` is the launch
image. -/
theorem resetAndPowerUp : Obligations.ResetAndPowerUp := by
  refine ⟨cpuReset_eq, fun l hl => ⟨(clear l).spriteDraws, ?_⟩⟩
  have hpc : (clear l).wordAt resetVector = leWord (Mem.read l.ext0 0xFFFC) (Mem.read l.ext0 0xFFFD) :=
    State.wordAt_resetVector_ext hl
  rw [powerUp, cpuReset_eq, hpc]
  rfl

end Sys2Proof
end

section
/-!
PROOFS. The encoding (R100 to R104, R110 to R115): an entry of the matrix builds an instruction from its operand bytes, and
decoding is looking up the entry and building. The row of an instruction's own opcode builds it from its own operand bytes.
-/
namespace Sys2Proof

/-! ## Building an instruction from its operand bytes -/

/-- The instruction an entry of the matrix makes of exactly the operand bytes its format has (R101, R104). -/
def Form.build : Form → List Byte → Option Instr
  | .f1 i, [] => some i
  | .f2imm mk, [b] => some (mk b)
  | .f2 mk, [b] => some (mk b)
  | .f3 mk, [lo, hi] => some (mk (leWord lo hi))
  | _, _ => none

/-- Row by row of R113: the matrix holds, under the opcode of an instruction, the entry that builds it. -/
theorem formOf_opcode (i : Instr) : ∃ f, formOf i.opcode = some f ∧ f.build i.operandBytes = some i := by
  cases i <;> exact ⟨_, rfl, by simp only [Instr.operandBytes, Form.build, leWord_loByte_hiByte]⟩

/-- What an entry builds has the entry's opcode and the operand bytes it was built from (R113). -/
theorem Form.sound_build {op : Byte} {f : Form} {bytes : List Byte} {i : Instr} (hs : f.sound op)
    (hb : f.build bytes = some i) : i.opcode = op ∧ i.operandBytes = bytes := by
  unfold Form.build at hb
  split at hb <;> cases hb
  · exact ⟨hs.1, hs.2.1⟩
  · exact ⟨(hs _).1, (hs _).2.1⟩
  · exact ⟨(hs _).1, (hs _).2.1⟩
  · refine ⟨(hs _).1, ?_⟩
    rw [(hs _).2.1, loByte_leWord, hiByte_leWord]

/-! ## Decoding -/

theorem decode_none {op : Byte} (hf : formOf op = none) (rest : List Byte) :
    decode (op :: rest) = .error (.unsupportedOpcode op) := by
  simp only [decode, hf]

/-- Decoding is building from the operand bytes at the front (R100, R101). -/
theorem decode_eq_ok_iff {op : Byte} {f : Form} (hf : formOf op = some f) (bytes : List Byte) (i : Instr)
    (rest : List Byte) : decode (op :: bytes) = .ok (i, rest) ↔
      ∃ operands, bytes = operands ++ rest ∧ f.build operands = some i := by
  constructor
  · intro h
    simp only [decode, hf] at h
    split at h
    · cases h
    · rename_i hj; cases hj; cases h; exact ⟨[], rfl, rfl⟩
    · rename_i hj; cases hj; split at h <;> cases h; exact ⟨[_], rfl, rfl⟩
    · rename_i hj; cases hj; split at h <;> cases h; exact ⟨[_], rfl, rfl⟩
    · rename_i hj; cases hj; split at h <;> cases h; exact ⟨[_, _], rfl, rfl⟩
  · rintro ⟨operands, rfl, hb⟩
    unfold Form.build at hb
    split at hb <;> cases hb <;> simp only [decode, hf, List.nil_append, List.cons_append]

end Sys2Proof

namespace Sys2Proof

open Sys2Proof.Machine

/-- Settles O1: the entry under the instruction's opcode builds it from its operand bytes, `formOf_opcode`. -/
theorem decodeOfEncode : Obligations.DecodeOfEncode := by
  intro i rest _
  obtain ⟨f, hf, hb⟩ := formOf_opcode i
  exact (decode_eq_ok_iff hf _ _ _).mpr ⟨i.operandBytes, rfl, hb⟩

/-- Settles O2: the bytes an instruction was built from are its own, `Form.sound_build`. -/
theorem encodeOfDecode : Obligations.EncodeOfDecode := by
  intro bytes i rest hd
  refine ⟨?_, wellFormed_all i⟩
  cases bytes with
  | nil => cases hd
  | cons op bytes =>
    cases hf : formOf op with
    | none => rw [decode_none hf] at hd; cases hd
    | some f =>
      obtain ⟨operands, rfl, hb⟩ := (decode_eq_ok_iff hf _ _ _).mp hd
      obtain ⟨rfl, rfl⟩ := Form.sound_build (formOf_sound hf) hb
      rfl

/-- Settles O3: the listed bytes are those without an entry, `formOf_isNone`; with three bytes at hand every entry decodes. -/
theorem undocumentedBytesRefused : Obligations.UndocumentedBytesRefused := by
  intro op b1 b2 rest
  have hlist : (formOf op).isNone = true ↔ op ∈ undocumentedOpcodes := by rw [formOf_isNone, List.contains_iff_mem]
  refine ⟨fun hu => ?listed, fun hu => ?other⟩
  case listed => exact decode_none (Option.isNone_iff_eq_none.mp (hlist.mpr hu)) _
  case other =>
    obtain ⟨f, hf⟩ := Option.ne_none_iff_exists'.mp (mt Option.isNone_iff_eq_none.mpr (mt hlist.mp hu))
    have hs := formOf_sound hf
    simp only [decode, hf]
    cases f with
    | f1 i => exact ⟨i, _, rfl, hs.1⟩
    | f2imm mk => exact ⟨mk b1, _, rfl, (hs b1).1⟩
    | f2 mk => exact ⟨mk b1, _, rfl, (hs b1).1⟩
    | f3 mk => exact ⟨mk (leWord b1 b2), _, rfl, (hs _).1⟩

/-- Settles O4: each word is decoded by looking its opcode up in the matrix. -/
theorem sampleWordsDecode : Obligations.SampleWordsDecode :=
  ⟨rfl, rfl, rfl, rfl, rfl, rfl, rfl, rfl, rfl, rfl, rfl, rfl⟩

end Sys2Proof
end

section
/-!
PROOFS. What every step keeps (R58, R88) and what no instruction touches (R253): each is one property that bus accesses, register
updates and recorded faults keep (`Kept`), so that every instruction does, and with the PPU cycles every step.
-/
namespace Sys2Proof.Machine

/-! ## From the parts of a step to the step -/

/-- What the parts of an instruction, the end of an NMI entry and a PPU cycle keep, every step keeps (R320, R321). -/
theorem Kept.step {P : State → Prop} (K : Kept P) (hnmi : ∀ s : State, P s → P { s with nmiPending := false })
    (hppu : ∀ s, P s → P (ppuCycle s)) {s t : State} (h : P s) (ht : Machine.step s = .next t) : P t := by
  obtain ⟨-, u, rfl, hu⟩ := step_cases ht
  have hbegun : P u := by
    rcases hu with ⟨-, rfl⟩ | ⟨-, -, hu⟩ | ⟨-, -, hu⟩
    · exact h
    · exact K.nmiStep hnmi h hu
    · exact K.instructionStep h hu
  exact endStep_cases u hbegun (Function.Iterate.rec P (K.regs u.a u.x u.y u.sp u.pc _ hbegun) hppu 3)

/-! ## The invariant -/

/-- The parts of an instruction keep the invariant (R58): the bus by its own laws, P by R31. -/
theorem kept_wf : Kept fun s => s.wf = true where
  read _ _ h := memRead_wf h
  write _ _ _ h := memWrite_wf h
  cpu s a x y sp pc p n hp h := by
    rw [State.wf_iff] at h ⊢
    obtain ⟨hu, hb, hrest⟩ := h
    rcases hp with ⟨hu', hb'⟩ | ⟨hu', hb'⟩
    · exact ⟨hu'.trans hu, hb'.trans hb, hrest⟩
    · exact ⟨hu', hb', hrest⟩
  fault s f hf h := by
    rw [State.wf_iff] at h ⊢
    obtain ⟨hu, hb, -, hrest⟩ := h
    exact ⟨hu, hb, hf, hrest⟩

/-! ## What no instruction touches -/

/-- What of the PPU no register access and no DMA touches (R253, R77): the other fields are put at 0. -/
def Ppu.untouched (p : Ppu) : Ppu :=
  { p with
    ctrl := 0, mask := 0, vblank := false, oamAddr := 0, v := 0, t := 0, fineX := 0, w := false
    oam := [], nt := [], pal := [], chr := [] }

/-- What of the machine no instruction touches: the other fields are put at 0. -/
def State.untouched (s : State) : State :=
  { s with
    a := 0, x := 0, y := 0, sp := 0, pc := 0, p := Flags.atReset, cyclesRemaining := 0, fault := none
    ram := [], ext := [], ppu := s.ppu.untouched }

theorem ppuRegRead_untouched {l : Launch} {index : BitVec 3} {d : Byte} {p q : Ppu}
    (hq : ppuRegRead l index p = some (d, q)) : q.untouched = p.untouched := by
  unfold ppuRegRead at hq
  split at hq <;> cases hq
  · rfl
  · rfl
  · unfold Ppu.afterDataRead
    split <;> rfl

theorem vramWrite_untouched (m : Mirroring) (p : Ppu) (a : BitVec 14) (d : Byte) :
    (vramWrite m p a d).untouched = p.untouched := by
  unfold vramWrite
  cases vramCell m a <;> rfl

theorem ppuRegWrite_untouched {l : Launch} {index : BitVec 3} {d : Byte} {p q : Ppu}
    (hq : ppuRegWrite l index d p = some q) : q.untouched = p.untouched := by
  unfold ppuRegWrite at hq
  split at hq <;> cases hq
  case h_5 => unfold Ppu.writeScroll; split <;> rfl
  case h_6 => unfold Ppu.writeAddr; split <;> rfl
  case h_7 => exact vramWrite_untouched l.mirroring p p.dataAddress d
  all_goals rfl

theorem State.untouched_with_ppu {s : State} {q : Ppu} (h : q.untouched = s.ppu.untouched) :
    State.untouched { s with ppu := q } = s.untouched := by
  simp only [State.untouched, h]

theorem memRead_untouched (a : Word) (s : State) : (memRead a s).left.untouched = s.untouched := by
  unfold memRead
  split
  · rfl
  · split
    · rename_i hq; exact State.untouched_with_ppu (ppuRegRead_untouched hq)
    · rfl
  · rfl
  · rfl

theorem oamCopy_untouched (page : Byte) (count : Nat) : ∀ (first : Nat) (s : State),
    (oamCopy page first count s).left.untouched = s.untouched := by
  induction count with
  | zero => exact fun _ _ => rfl
  | succ n ih =>
    exact fun first s => Res.left_bind (P := fun t => t.untouched = s.untouched) (memRead_untouched _ s)
      fun _ _ ht => (ih _ _).trans ht

theorem memWrite_untouched (a : Word) (d : Byte) (s : State) : (memWrite a d s).left.untouched = s.untouched := by
  unfold memWrite
  split
  · rfl
  · split
    · rename_i hq; exact State.untouched_with_ppu (ppuRegWrite_untouched hq)
    · rfl
  · exact Res.left_bind (P := fun t => t.untouched = s.untouched) (oamCopy_untouched d 256 0 s) fun _ _ ht => ht
  · rfl

theorem kept_untouched (u : State) : Kept fun s => s.untouched = u where
  read a s h := (memRead_untouched a s).trans h
  write a d s h := (memWrite_untouched a d s).trans h
  cpu _ _ _ _ _ _ _ _ _ h := h
  fault _ _ _ h := h

theorem kept_launch (l : Launch) : Kept fun s => s.launch = l where
  read a s h := (congrArg State.launch (memRead_untouched a s)).trans h
  write a d s h := (congrArg State.launch (memWrite_untouched a d s)).trans h
  cpu _ _ _ _ _ _ _ _ _ h := h
  fault _ _ _ h := h

/-- Every instruction answers a next state, a raise included (R343). -/
theorem exec_next (i : Instr) (s : State) : ∃ t, exec i s = .next t := by
  obtain ⟨b, -, hb⟩ := runs_exec i
  rw [hb]
  exact Res.outcome_next _

end Sys2Proof.Machine

namespace Sys2Proof

open Sys2Proof.Machine

/-- Settles O12: the reset flags have U = 1 and B = 0, and its memories are in canonical form, `reset_memories_wf`. -/
theorem resetIsWellFormed : Obligations.ResetIsWellFormed :=
  (State.wf_iff _).mpr ⟨rfl, rfl, rfl, reset_memories_wf⟩

/-- Settles O13: the parts of an instruction keep the invariant (`kept_wf`), and so does a PPU cycle (`ppuCycle_wf`). -/
theorem stepKeepsWellFormed : Obligations.StepKeepsWellFormed :=
  fun _ _ hwf hstep => kept_wf.step (fun _ h => h) (fun _ h => ppuCycle_wf h) hwf hstep

/-- Settles O14: the parts of an instruction keep the launch parameters (`kept_launch`), and so does a PPU cycle. -/
theorem stepKeepsLaunch : Obligations.StepKeepsLaunch :=
  fun s _ hstep => (kept_launch s.launch).step (fun _ h => h) (fun t h => (ppuCycle_launch t).trans h) rfl hstep

/-- Settles O11: every instruction keeps the untouched part of the machine, `kept_untouched`, which holds each field named. -/
theorem execTouchesNoRendererState : Obligations.ExecTouchesNoRendererState := by
  intro i s
  obtain ⟨t, ht⟩ := exec_next i s
  have h : t.untouched = s.untouched := (kept_untouched s.untouched).exec rfl ht
  simp only [State.untouched, Ppu.untouched, State.mk.injEq, Ppu.mk.injEq, true_and] at h
  exact ⟨t, ht, by simp only [h, and_self]⟩

end Sys2Proof
end

section
/-!
PROOFS. The step (R320 to R324): an instruction-step at a boundary is fetch, `exec` and the end of the step; a fetch that raises
ends it; owed cycles run PPU cycles alone; a pending NMI is taken first.
-/
namespace Sys2Proof

/-! ## The format of an entry -/

/-- How many bytes the format of an entry has (R101). -/
def Form.length : Form → Nat
  | .f1 _ => 1
  | .f2imm _ | .f2 _ => 2
  | .f3 _ => 3

/-- Whether an entry reads an immediate (R135). -/
def Form.readsImmediate : Form → Bool
  | .f2imm _ => true
  | .f1 _ | .f2 _ | .f3 _ => false

/-- The entry of an instruction's opcode has the length of the instruction, and reads an immediate in the immediate mode only. -/
theorem Form.format_of_opcode {i : Instr} {f : Form} (hf : formOf i.opcode = some f) :
    f.length = i.length ∧ f.readsImmediate = decide (i.mode = .imm) := by
  obtain ⟨g, hg, hb⟩ := formOf_opcode i
  cases hf.symm.trans hg
  have hs := formOf_sound hf
  have hm := formOf_immediate hf
  unfold Form.build at hb
  split at hb <;> cases hb
  · exact ⟨hs.2.2.symm, (decide_eq_false hm).symm⟩
  · exact ⟨(hs _).2.2.symm, (decide_eq_true (hm _)).symm⟩
  · exact ⟨(hs _).2.2.symm, (decide_eq_false (hm _)).symm⟩
  · exact ⟨(hs _).2.2.symm, (decide_eq_false (hm _)).symm⟩

end Sys2Proof

namespace Sys2Proof.Machine

/-! ## What the end of a step gives -/

/-- R320, R324: without a fault a step ends in a cycle counted down and three PPU cycles, with one it ends at once. -/
theorem step_ends {s t : State} (hf : s.fault = none) (h : beginCycle s = .next t) :
    (t.fault = none → step s = .next (ppuCycles3 { t with cyclesRemaining := t.cyclesRemaining - 1 })) ∧
      (t.fault ≠ none → step s = .next t) := by
  rw [step_of_begin hf h]
  refine ⟨fun ht => ?_, fun ht => ?_⟩
  · rw [endStep_none ht, ppuCycles3_eq]
  · obtain ⟨f, hf⟩ := Option.ne_none_iff_exists'.mp ht
    rw [endStep_some hf]

/-- R130: where the fetch answers an instruction, the cycle-step begins with its `exec`. -/
theorem beginCycle_of_fetch {s u : State} {i : Instr} (hb : s.atBoundary = true) (hu : fetch s = .ok i u) :
    beginCycle s = exec i u := by
  rw [beginCycle_boundary hb, instructionStep, hu]

/-- R343: where the fetch raises, the step is the record of its fault. -/
theorem step_of_fetch_raised {s u : State} {f : Fault} (hb : s.atBoundary = true) (hu : fetch s = .raised f u) :
    step s = .next { u with fault := some f } := by
  have hbegin : beginCycle s = .next { u with fault := some f } := by rw [beginCycle_boundary hb, instructionStep, hu]
  exact (step_ends ((atBoundary_iff s).mp hb).1 hbegin).2 (Option.some_ne_none f)

/-! ## NMI entry -/

theorem State.fault_pushed (bytes : List Byte) (s : State) : (s.pushed bytes).fault = s.fault := by
  induction bytes generalizing s with
  | nil => rfl
  | cons d rest ih => simp [State.pushed, ih]

/-- R335, R336: NMI entry never raises, and the NMI's own cycles are owed after it. -/
theorem nmiStep_eq (s : State) : nmiStep s = .next { s.pushed [hiByte s.pc, loByte s.pc, s.p.pushedByNmi] with
    p := { s.p with i := true }
    pc := (s.pushed [hiByte s.pc, loByte s.pc, s.p.pushedByNmi]).wordAt nmiVector
    nmiPending := false
    cyclesRemaining := s.launch.nmiCycles } := by
  rw [nmiStep, nmiEntry, enterTrap_eq _ _ _ _ (by decide) (by decide)]
  simp only [Res.bind_ok, Res.outcome_ok, State.launch_pushed]

/-! ## Owed cycles -/

/-- R321: a step with cycles owed runs three PPU cycles and counts one down. -/
theorem step_owed {s : State} (hf : s.fault = none) (h : 0 < s.cyclesRemaining) :
    step s = .next (ppuCycle^[3] { s with cyclesRemaining := s.cyclesRemaining - 1 }) := by
  rw [step_of_begin hf (beginCycle_owed h), endStep_none hf]

/-- The count of owed cycles can be put in place before or after PPU cycles. -/
theorem iterate_recount (n m k : Nat) (s : State) :
    { ppuCycle^[n] { s with cyclesRemaining := m } with cyclesRemaining := k } = ppuCycle^[n] { s with cyclesRemaining := k } :=
  (iterate_with_cyclesRemaining n k { s with cyclesRemaining := m }).symm

/-- R321, R322(a): n steps with n cycles owed. -/
theorem run_owed (n : Nat) : ∀ s : State, s.fault = none → n ≤ s.cyclesRemaining →
    Sys2Proof.core.run n s = .next (ppuCycle^[3 * n] { s with cyclesRemaining := s.cyclesRemaining - n }) := by
  induction n with
  | zero => exact fun _ _ _ => rfl
  | succ n ih =>
    intro s hf hn
    have hfault := iterate_fault 3 { s with cyclesRemaining := s.cyclesRemaining - 1 }
    have howed := iterate_cyclesRemaining 3 { s with cyclesRemaining := s.cyclesRemaining - 1 }
    have hcount : s.cyclesRemaining - 1 - n = s.cyclesRemaining - (n + 1) := by omega
    have hrest := ih (ppuCycle^[3] { s with cyclesRemaining := s.cyclesRemaining - 1 }) (hfault.trans hf)
      (Nat.le_trans (Nat.le_sub_one_of_lt hn) howed.ge)
    rw [howed, hcount, iterate_recount, ← Function.iterate_add_apply] at hrest
    exact (run_succ n (step_owed hf (Nat.zero_lt_of_lt hn))).trans hrest

/-! ## Fetches that raise -/

/-- R341: the opcode byte cannot be read. -/
theorem fetch_unreadable {s : State} (h : s.readable s.pc = false) :
    fetch s = .raised (.invalidRegisterAccess .read (canonicalAddress s s.pc)) s := by
  simp only [fetch, fetchByte, memRead_unreadable h, Res.bind_raised]

/-- R340: the opcode byte has no entry. -/
theorem fetch_undocumented {s : State} (h : s.readable s.pc = true) (hf : formOf (s.readByte s.pc) = none) :
    fetch s = .raised (.unsupportedOpcode s.pc (s.readByte s.pc)) s.afterByte := by
  simp only [fetch, fetchByte_readable h, Res.bind_ok, hf]

theorem fetchByte_unreadable {s : State} (h : s.readable s.pc = false) :
    fetchByte s = .raised (.invalidRegisterAccess .read (canonicalAddress s s.pc)) s := by
  simp only [fetchByte, memRead_unreadable h, Res.bind_raised]

/-- R135: an immediate is read with PC already past it. -/
theorem fetchImmediate_unreadable {s : State} (h : s.readable s.pc = false) :
    fetchImmediate s = .raised (.invalidRegisterAccess .read (canonicalAddress s s.pc)) { s with pc := s.pc + 1 } :=
  memRead_unreadable (s := { s with pc := s.pc + 1 }) h

@[simp] theorem State.pc_afterByte (s : State) : s.afterByte.pc = s.pc + 1 := rfl

/-- What an address selects is no matter of the bytes fetched before. -/
@[simp] theorem State.target_afterByte (s : State) (a : Word) : s.afterByte.target a = s.target a := State.target_afterRead s s.pc a

@[simp] theorem State.readable_afterByte (s : State) (a : Word) : s.afterByte.readable a = s.readable a :=
  State.readable_congr (State.target_afterByte s a)

theorem canonicalAddress_congr {s t : State} {a : Word} (h : s.target a = t.target a) :
    canonicalAddress s a = canonicalAddress t a := by
  simp only [canonicalAddress, h]

/-- R341: the first operand byte cannot be read. -/
theorem fetch_operand_unreadable {s : State} {f : Form} (hr : s.readable s.pc = true)
    (hf : formOf (s.readByte s.pc) = some f) (hlen : 1 < f.length) (hbad : s.readable (s.pc + 1) = false) :
    fetch s = .raised (.invalidRegisterAccess .read (canonicalAddress s (s.pc + 1)))
      { s.afterByte with pc := if f.readsImmediate then s.pc + 2 else s.pc + 1 } := by
  have hbad' : s.afterByte.readable s.afterByte.pc = false := (State.readable_afterByte s _).trans hbad
  have hcanon : canonicalAddress s.afterByte (s.pc + 1) = canonicalAddress s (s.pc + 1) :=
    canonicalAddress_congr (State.target_afterByte s _)
  have hpc : s.pc + 1 + 1 = s.pc + 2 := BitVec.add_assoc s.pc 1 1
  rw [← hcanon, fetch, fetchByte_readable hr, Res.bind_ok, hf]
  cases f with
  | f1 i => exact absurd hlen (Nat.lt_irrefl 1)
  | f2imm mk => simp only [fetchImmediate_unreadable hbad', Res.bind_raised, State.pc_afterByte, hpc]; rfl
  | f2 mk => simp only [fetchByte_unreadable hbad', Res.bind_raised, State.pc_afterByte]; rfl
  | f3 mk => simp only [fetchByte_unreadable hbad', Res.bind_raised, State.pc_afterByte]; rfl

/-- R341: the second operand byte cannot be read. -/
theorem fetch_secondOperand_unreadable {s : State} {f : Form} (hr : s.readable s.pc = true)
    (hf : formOf (s.readByte s.pc) = some f) (hlen : 2 < f.length) (hr' : s.readable (s.pc + 1) = true)
    (hbad : s.readable (s.pc + 2) = false) :
    fetch s = .raised (.invalidRegisterAccess .read (canonicalAddress s (s.pc + 2)))
      { s.afterByte.afterByte with pc := s.pc + 2 } := by
  have hpc : s.afterByte.afterByte.pc = s.pc + 2 := BitVec.add_assoc s.pc 1 1
  have hr'' : s.afterByte.readable s.afterByte.pc = true := (State.readable_afterByte s _).trans hr'
  have hbad' : s.afterByte.afterByte.readable s.afterByte.afterByte.pc = false := by
    rw [hpc, State.readable_afterByte, State.readable_afterByte, hbad]
  have hcanon : canonicalAddress s.afterByte.afterByte (s.pc + 2) = canonicalAddress s (s.pc + 2) :=
    canonicalAddress_congr ((State.target_afterByte _ _).trans (State.target_afterByte s _))
  rw [← hcanon, ← hpc, fetch, fetchByte_readable hr, Res.bind_ok, hf]
  cases f with
  | f1 i => exact absurd hlen (of_decide_eq_false rfl)
  | f2imm mk => exact absurd hlen (of_decide_eq_false rfl)
  | f2 mk => exact absurd hlen (of_decide_eq_false rfl)
  | f3 mk => simp only [fetchByte_readable hr'', fetchByte_unreadable hbad', Res.bind_ok, Res.bind_raised]

end Sys2Proof.Machine

namespace Sys2Proof

open Sys2Proof.Machine

/-- Settles O5: both parts are `exec` of the fetched instruction, by `fetch_plain` and by `fetch_readable`. -/
theorem stepRunsDecodedInstruction : Obligations.StepRunsDecodedInstruction := by
  have hstep {s u : State} {i : Instr} (hb : s.atBoundary = true) (hu : fetch s = .ok i u) : ∃ t, exec i u = .next t ∧
      (t.fault = none → step s = .next (ppuCycles3 { t with cyclesRemaining := t.cyclesRemaining - 1 })) ∧
      (t.fault ≠ none → step s = .next t) := by
    obtain ⟨t, ht⟩ := exec_next i u
    exact ⟨t, ht, step_ends ((atBoundary_iff s).mp hb).1 ((beginCycle_of_fetch hb hu).trans ht)⟩
  exact ⟨fun s i rest hb hplain hd => hstep hb (fetch_plain hplain hd),
    fun s i hb hfetchable hd => hstep hb (fetch_readable hfetchable hd)⟩

/-- Settles O7: the end of a step with a fault held is `step_ends`, and a held fault is looked at first. -/
theorem faultedStateHasNoSuccessor : Obligations.FaultedStateHasNoSuccessor := by
  refine ⟨fun s t f hf hbegin ht => (step_ends hf hbegin).2 (ht ▸ Option.some_ne_none f), fun s f hf => ?_⟩
  rw [step, machineStep, hf]

/-- Settles O8, by induction on the number of steps, `run_owed`. -/
theorem owedCyclesRun : Obligations.OwedCyclesRun := run_owed

/-- Settles O9: the first step runs the instruction and one cycle of its cost, the others only what is owed, `run_owed`. -/
theorem instructionOccupiesItsCost : Obligations.InstructionOccupiesItsCost := by
  intro s t i rest hb hplain hd ht hf hcost
  obtain ⟨n, hn⟩ : ∃ n, t.cyclesRemaining = n + 1 := ⟨t.cyclesRemaining - 1, by omega⟩
  have hbegin : beginCycle s = .next t := (beginCycle_of_fetch hb (fetch_plain hplain hd)).trans ht
  have hfirst : step s = .next (ppuCycle^[3] { t with cyclesRemaining := n }) := by
    rw [step_of_begin ((atBoundary_iff s).mp hb).1 hbegin, endStep_none hf, hn, Nat.add_sub_cancel]
  have hfault := iterate_fault 3 { t with cyclesRemaining := n }
  have howed := iterate_cyclesRemaining 3 { t with cyclesRemaining := n }
  have hrest := run_owed n (ppuCycle^[3] { t with cyclesRemaining := n }) (hfault.trans hf) howed.ge
  rw [howed, Nat.sub_self, iterate_recount, ← Function.iterate_add_apply] at hrest
  rw [hn]
  exact (run_succ n hfirst).trans hrest

/-- Settles O10: what a cycle-step begins with an NMI pending is `nmiStep_eq`, and it ends with no fault recorded. -/
theorem nmiTakenAtBoundary : Obligations.NmiTakenAtBoundary := by
  intro s hf hc hn _
  exact (step_ends hf ((beginCycle_nmi hc hn).trans (nmiStep_eq s))).1 ((State.fault_pushed _ s).trans hf)

/-- Settles O6: the fetch raises at the first byte that cannot be read or has no entry; how many bytes come before an operand
byte is the format of the opcode's entry, `formOf_opcode`. -/
theorem instructionFetchRaises : Obligations.InstructionFetchRaises := by
  intro s hb
  refine ⟨fun hr => step_of_fetch_raised hb (fetch_unreadable hr), fun hr hu => ?undocumented, fun i k hk hlen hr hbytes hbad => ?operand⟩
  case undocumented =>
    have hf : formOf (s.readByte s.pc) = none := by
      rw [← Option.isNone_iff_eq_none, formOf_isNone, List.contains_iff_mem]
      exact hu
    exact step_of_fetch_raised hb (fetch_undocumented hr hf)
  case operand =>
    obtain ⟨f, hf, -⟩ := formOf_opcode i
    obtain ⟨hflen, hfimm⟩ := Form.format_of_opcode hf
    have hlength : i.length ≤ 3 := by simp only [Instr.length]; cases i.mode <;> decide
    obtain rfl | rfl : k = 1 ∨ k = 2 := by omega
    · simp only [State.fetchable, State.fetchedBytes, Bool.and_true, encode, List.take_succ_cons, List.take_zero,
        List.cons.injEq, and_true] at hr hbytes
      rw [step_of_fetch_raised hb (fetch_operand_unreadable hr (hbytes ▸ hf) (by omega) hbad), hfimm]
      simp only [decide_eq_true_eq]
      rfl
    · simp only [State.fetchable, State.fetchedBytes, Bool.and_true, Bool.and_eq_true, encode, List.take_succ_cons,
        List.cons.injEq, State.readable_afterByte, State.pc_afterByte] at hr hbytes
      have himm : i.mode ≠ .imm := fun h => by simp [Instr.length, h, Mode.length] at hlen
      rw [step_of_fetch_raised hb (fetch_secondOperand_unreadable hr.1 (hbytes.1 ▸ hf) (by omega) hr.2 hbad),
        if_neg himm]
      rfl

end Sys2Proof
end

section
/-!
PROOFS. Storage, the register window and the effective addresses (R61 to R66, R76, R132 to R146, R267): which addresses name one
byte of storage, what an index of the window answers whatever the mirror, and the resolvers in numbers.
-/
namespace Sys2Proof.Machine

/-! ## Which addresses name one byte -/

theorem busTarget_cases (l a : Word) :
    (a.toNat ≤ l.toNat ∧ busTarget l a = .ram (a.toNat % 2048)) ∨
      (l.toNat < a.toNat ∧ busTarget l a = .ppu (a.extractLsb' 0 3)) ∨
      (l.toNat < a.toNat ∧ busTarget l a = .oamDma) ∨ (l.toNat < a.toNat ∧ busTarget l a = .ext a.toNat) := by
  unfold busTarget
  split
  · exact .inl ⟨by assumption, rfl⟩
  · rename_i hl
    have hl := Nat.not_le.mp hl
    split
    · exact .inr (.inl ⟨hl, rfl⟩)
    · split
      · exact .inr (.inr (.inl ⟨hl, rfl⟩))
      · exact .inr (.inr (.inr ⟨hl, rfl⟩))

/-- R65: plain storage is `RAM` through a mirror, or `EXT` at the address itself. -/
theorem State.target_of_plain {s : State} {a : Word} (h : s.plain a = true) :
    (a.toNat ≤ s.launch.ramMirrorLast.toNat ∧ s.target a = .ram (a.toNat % 2048)) ∨
      (s.launch.ramMirrorLast.toNat < a.toNat ∧ s.target a = .ext a.toNat) := by
  rcases busTarget_cases s.launch.ramMirrorLast a with ht | ⟨-, ht⟩ | ⟨-, ht⟩ | ht
  · exact .inl ht
  · simp [State.plain, State.peek, State.target, ht] at h
  · simp [State.plain, State.peek, State.target, ht] at h
  · exact .inr ht

/-- R62, R66: two addresses of plain storage name one byte when they are equal, or mirrors of one byte of `RAM`. -/
theorem State.target_eq_iff {s : State} {a b : Word} (ha : s.plain a = true) (hb : s.plain b = true) :
    s.target b = s.target a ↔ a = b ∨ (a.toNat ≤ s.launch.ramMirrorLast.toNat ∧
      b.toNat ≤ s.launch.ramMirrorLast.toNat ∧ a.toNat % 2048 = b.toNat % 2048) := by
  have hinj : a = b ↔ a.toNat = b.toNat := BitVec.toNat_eq
  rcases State.target_of_plain ha with ⟨hla, hta⟩ | ⟨hla, hta⟩ <;>
    rcases State.target_of_plain hb with ⟨hlb, htb⟩ | ⟨hlb, htb⟩ <;>
    simp only [hta, htb, Target.ram.injEq, Target.ext.injEq, reduceCtorEq, false_iff, hinj] <;> omega

/-! ## The register window -/

/-- R63: the address of mirror k of register i. -/
theorem State.target_mirror {s : State} {k i : Nat} (hk : k < 1024) (hi : i < 8)
    (hl : s.launch.ramMirrorLast.toNat < 0x2000) :
    s.target (BitVec.ofNat 16 (0x2000 + 8 * k + i)) = .ppu (BitVec.ofNat 3 i) := by
  have ha : (BitVec.ofNat 16 (0x2000 + 8 * k + i)).toNat = 0x2000 + 8 * k + i := by
    rw [BitVec.toNat_ofNat]
    omega
  have hmod : (0x2000 + 8 * k + i) % 8 = i := by omega
  rw [State.target_window (by omega) (by omega) (by omega), ha, hmod]

/-- A register that has no write raises at its canonical address (R252, R341). -/
theorem memWrite_register_none {s : State} {a : Word} {d : Byte} {index : BitVec 3} (ht : s.target a = .ppu index)
    (hw : ppuRegWrite s.launch index d s.ppu = none) :
    memWrite a d s = .raised (.invalidRegisterAccess .write (registerAddress index)) s := by
  simp only [memWrite, ht, hw]

/-! ## Effective addresses in numbers -/

theorem toNat_add_zext16 (base : Word) (index : Byte) :
    (base + zext16 index).toNat = (base.toNat + index.toNat) % 65536 := by
  rw [BitVec.toNat_add, toNat_zext16]

/-- R146: an indexed address crosses a page when its page differs from the base's. -/
theorem pageCross_add_zext16 (base : Word) (index : Byte) : pageCross base (base + zext16 index) =
    decide (base.toNat / 256 ≠ (base.toNat + index.toNat) % 65536 / 256) := by
  rw [pageCross_eq, toNat_add_zext16]

theorem zext16_eq_ofNat (b : Byte) : zext16 b = BitVec.ofNat 16 b.toNat := (BitVec.ofNat_toNat 16 b).symm

/-- R144, R145: a zero-page pointer wraps within the zero page. -/
theorem toNat_pointerAt (s : State) (p : Byte) : (pointerAt s p).toNat =
    (s.byteAt (BitVec.ofNat 16 p.toNat)).toNat + 256 * (s.byteAt (BitVec.ofNat 16 ((p.toNat + 1) % 256))).toNat := by
  have hnext : (p + 1).toNat = (p.toNat + 1) % 256 := BitVec.toNat_add p 1
  rw [pointerAt, toNat_leWord, zext16_eq_ofNat, zext16_eq_ofNat, hnext]

end Sys2Proof.Machine

namespace Sys2Proof

open Sys2Proof.Machine

/-- Settles O18: the byte is stored where `State.target_eq_iff` says the two addresses name the same storage. -/
theorem storedByteReadsBack : Obligations.StoredByteReadsBack := by
  intro a b d s ha hb
  refine ⟨pokeByte a d s, memWrite_plain d ha, ?_, pokeByte_ppu a d s, pokeByte_cyclesRemaining a d s⟩
  rw [memRead_plain ((State.plain_pokeByte s a b d).trans hb), State.byteAt_pokeByte s a b d ha]
  simp only [State.target_eq_iff ha hb]

/-- Settles O19: every mirror selects the register's index, `State.target_mirror`, and the bus looks at the index alone. -/
theorem registerWindowMirrors : Obligations.RegisterWindowMirrors := by
  intro k i d s hk hi hl
  have ht := State.target_mirror (s := s) hk hi hl
  rw [← registerAddress_ofNat hi]
  refine ⟨?read, ?write⟩
  case read =>
    split
    · rename_i hr; exact memRead_register ht hr
    · rename_i hr; exact memRead_register_none ht hr
  case write =>
    split
    · rename_i hw; exact memWrite_register ht hw
    · rename_i hw; exact memWrite_register_none ht hw

/-- Settles O22: a resolver is `resolve_eq`; the sums and pages in numbers are `toNat_add_zext16`, `pageCross_add_zext16` and
`toNat_pointerAt`. -/
theorem effectiveAddresses : Obligations.EffectiveAddresses := by
  intro s z a
  exact ⟨fun m => resolve_eq m s, ⟨toNat_zext16 z, rfl⟩,
    ⟨(toNat_zext16 _).trans (BitVec.toNat_add z s.x), rfl⟩, ⟨(toNat_zext16 _).trans (BitVec.toNat_add z s.y), rfl⟩, ⟨rfl, rfl⟩,
    ⟨toNat_add_zext16 a s.x, pageCross_add_zext16 a s.x⟩, ⟨toNat_add_zext16 a s.y, pageCross_add_zext16 a s.y⟩,
    toNat_pointerAt s, ⟨rfl, rfl⟩, toNat_add_zext16 _ s.y, pageCross_add_zext16 _ s.y⟩

end Sys2Proof
end

section
/-!
PROOFS. Stores and what raises on the bus (R153 to R155, R252, R264 to R266, R341): a store to storage and to registers, OAM DMA as
a run of copies that ends at the first byte without a read, the write of $2002, and reads without a read.
-/
namespace Sys2Proof.Machine

/-! ## The body each shape runs -/

/-- Row by row of the shape: STA, STX and STY are `store` of their register, under their own opcode byte. -/
theorem exec_of_storeForm {i : Instr} {r : Reg} {m : Addr} (h : storeForm i = some (r, m)) (s : State) :
    exec i s = (store i.opcode r m s).outcome := by
  unfold storeForm at h
  split at h <;> cases h <;> rfl

/-- R200: a read-modify-write instruction is INC, DEC or a shift or rotate of memory. -/
theorem modifyForm_cases {i : Instr} {m : Addr} (h : modifyForm i = some m) :
    incForm i = some m ∨ decForm i = some m ∨ ∃ op, shiftMemForm i = some (op, m) := by
  simp only [modifyForm, Option.or_eq_some_iff, Option.map_eq_some_iff, Prod.exists] at h
  rcases h with h | ⟨-, h | ⟨-, op, _, h, rfl⟩⟩
  · exact .inl h
  · exact .inr (.inl h)
  · exact .inr (.inr ⟨op, h⟩)

/-- The instructions that read a data byte from memory, by shape. -/
theorem dataReadForm_cases {i : Instr} {m : Addr} (h : dataReadForm i = some m) :
    (∃ r, loadForm i = some (r, .mem m)) ∨ (∃ op, logicForm i = some (op, .mem m)) ∨ bitForm i = some (.mem m) ∨
      adcForm i = some (.mem m) ∨ sbcForm i = some (.mem m) ∨ (∃ r, compareForm i = some (r, .mem m)) ∨
      incForm i = some m ∨ decForm i = some m ∨ ∃ op, shiftMemForm i = some (op, m) := by
  unfold dataReadForm at h
  split at h <;> cases h <;>
    simp [loadForm, logicForm, bitForm, adcForm, sbcForm, compareForm, incForm, decForm, shiftMemForm]

/-! ## OAM DMA -/

theorem Res.bind_assoc {α β γ : Type} (r : Res α) (k : α → State → Res β) (l : β → State → Res γ) :
    (r.bind k).bind l = r.bind fun v s => (k v s).bind l := by
  cases r <;> rfl

/-- Copies one after another are the first so many and then the others (R264). -/
theorem oamCopy_add (page : Byte) (m n : Nat) : ∀ (first : Nat) (s : State), oamCopy page first (m + n) s =
    (oamCopy page first m s).bind fun _ t => oamCopy page (first + m) n t := by
  induction m with
  | zero => intro first s; rw [Nat.zero_add]; rfl
  | succ m ih =>
    intro first s
    rw [Nat.add_right_comm, ← Nat.add_assoc, Nat.add_right_comm first]
    simp only [oamCopy, Res.bind_assoc, ih]

/-- OAM after the copies `first, first + 1, ...`, `count` of them, of a page of plain storage (R264). -/
def State.copied (s : State) (page : Byte) (first count : Nat) (oam : Mem 8) : Mem 8 :=
  match count with
  | 0 => oam
  | n + 1 => s.copied page (first + 1) n
      (Mem.write oam (s.ppu.oamAddr + BitVec.ofNat 8 first).toNat (s.byteAt (leWord (BitVec.ofNat 8 first) page)))

/-- R264: copies from plain storage raise nothing and change `OAM` alone. -/
theorem oamCopy_plain (s : State) (page : Byte) (count : Nat) : ∀ (first : Nat) (oam : Mem 8),
    (∀ k, first ≤ k → k < first + count → s.plain (leWord (BitVec.ofNat 8 k) page) = true) →
    oamCopy page first count { s with ppu := { s.ppu with oam := oam } } =
      .ok () { s with ppu := { s.ppu with oam := s.copied page first count oam } } := by
  induction count with
  | zero => exact fun _ _ _ => rfl
  | succ n ih =>
    intro first oam h
    have hread : memRead (leWord (BitVec.ofNat 8 first) page) { s with ppu := { s.ppu with oam := oam } } =
        .ok (s.byteAt (leWord (BitVec.ofNat 8 first) page)) { s with ppu := { s.ppu with oam := oam } } :=
      memRead_plain (s := { s with ppu := { s.ppu with oam := oam } }) (h first (Nat.le_refl _) (by omega))
    rw [oamCopy, hread, Res.bind_ok]
    exact ih (first + 1) _ fun k h1 h2 => h k (by omega) (by omega)

/-- R264: the byte copied to `oam_addr + k` is byte k of the page, wherever k is one of the copies. -/
theorem State.read_copied (s : State) (page : Byte) (count : Nat) : ∀ (first : Nat) (oam : Mem 8), first + count ≤ 256 →
    ∀ k : Byte, Mem.read (s.copied page first count oam) (s.ppu.oamAddr + k).toNat =
      if first ≤ k.toNat ∧ k.toNat < first + count then s.byteAt (leWord k page)
      else Mem.read oam (s.ppu.oamAddr + k).toNat := by
  induction count with
  | zero => intro first oam _ k; rw [if_neg (by omega)]; rfl
  | succ n ih =>
    intro first oam h k
    have hhere : (s.ppu.oamAddr + k).toNat = (s.ppu.oamAddr + BitVec.ofNat 8 first).toNat ↔ k.toNat = first := by
      rw [← BitVec.toNat_eq, BitVec.add_right_inj, BitVec.toNat_eq, BitVec.toNat_ofNat]
      omega
    rw [State.copied, ih _ _ (by omega) k, Mem.read_write]
    by_cases hk : k.toNat = first
    · have hk' : BitVec.ofNat 8 first = k := by rw [← hk, BitVec.ofNat_toNat, BitVec.setWidth_eq]
      rw [if_neg (by omega), if_pos (hhere.mpr hk), if_pos (by omega), hk']
    · simp only [hhere, hk, if_false]
      congr 1
      simp only [eq_iff_iff]
      omega

/-- The copies leave every index that is no byte of `OAM`. -/
theorem State.read_copied_of_ge (s : State) (page : Byte) (count : Nat) {n : Nat} (hn : 256 ≤ n) :
    ∀ (first : Nat) (oam : Mem 8), Mem.read (s.copied page first count oam) n = Mem.read oam n := by
  induction count with
  | zero => exact fun _ _ => rfl
  | succ c ih =>
    intro first oam
    have hlt := (s.ppu.oamAddr + BitVec.ofNat 8 first).isLt
    rw [State.copied, ih, Mem.read_write_ne _ _ (by omega)]

theorem leWord_eq_ofNat (lo hi : Byte) : leWord lo hi = BitVec.ofNat 16 (256 * hi.toNat + lo.toNat) := by
  apply BitVec.eq_of_toNat_eq
  have := lo.isLt
  have := hi.isLt
  rw [toNat_leWord, BitVec.toNat_ofNat]
  omega

/-- R264, R266: a DMA from a page of plain storage. -/
theorem oamDma_plain {s : State} {page : Byte} (h : s.plainPage page) : oamDma page s =
    .ok () { s with
      ppu := { s.ppu with oam := s.copied page 0 256 s.ppu.oam }
      cyclesRemaining := s.cyclesRemaining + s.launch.dmaStallCycles } := by
  rw [oamDma, oamCopy_plain s page 256 0 s.ppu.oam fun _ _ _ => h _]
  rfl

/-- R265: a DMA whose first copies are from plain storage, and whose next byte has no read. -/
theorem oamDma_raises {s : State} {page : Byte} {count : Nat} (hc : count < 256)
    (h : ∀ k, k < count → s.plain (leWord (BitVec.ofNat 8 k) page) = true)
    (hbad : s.readable (leWord (BitVec.ofNat 8 count) page) = false) : oamDma page s =
    .raised (.invalidRegisterAccess .read (canonicalAddress s (leWord (BitVec.ofNat 8 count) page)))
      { s with ppu := { s.ppu with oam := s.copied page 0 count s.ppu.oam } } := by
  obtain ⟨n, hn⟩ : ∃ n, 256 = count + (n + 1) := ⟨255 - count, by omega⟩
  have hfirst := oamCopy_plain s page count 0 s.ppu.oam fun k _ hk => h k (by omega)
  have hraise : memRead (leWord (BitVec.ofNat 8 count) page)
      { s with ppu := { s.ppu with oam := s.copied page 0 count s.ppu.oam } } = _ := memRead_unreadable hbad
  rw [oamDma, hn, oamCopy_add, hfirst, Res.bind_ok, Nat.zero_add, oamCopy, hraise]
  rfl

/-! ## Reads and writes that raise -/

/-- R63: the first address of a page of the register window. -/
theorem State.target_windowPage {s : State} {page : Byte} (hl : s.launch.ramMirrorLast.toNat < 0x2000)
    (h1 : 0x20 ≤ page.toNat) (h2 : page.toNat ≤ 0x3F) : s.target (leWord 0 page) = .ppu 0 := by
  have ha : (leWord 0 page).toNat = 256 * page.toNat := by rw [toNat_leWord]; exact Nat.zero_add _
  have hmod : 256 * page.toNat % 8 = 0 := by omega
  rw [State.target_window (by omega) (by omega) (by omega), ha, hmod]
  rfl

theorem State.readable_of_target_ppu {s : State} {a : Word} (h : s.target a = .ppu 0) : s.readable a = false := by
  rw [State.readable, h]
  rfl

theorem State.readable_of_target_oamDma {s : State} {a : Word} (h : s.target a = .oamDma) : s.readable a = false := by
  rw [State.readable, h]

theorem canonicalAddress_of_target_ppu {s : State} {a : Word} {index : BitVec 3} (h : s.target a = .ppu index) :
    canonicalAddress s a = registerAddress index := by
  rw [canonicalAddress, h]

theorem canonicalAddress_of_target_oamDma {s : State} {a : Word} (h : s.target a = .oamDma) : canonicalAddress s a = a := by
  rw [canonicalAddress, h]

/-- R200, R252: a read-modify-write of $2002 makes the read and raises on the write. -/
theorem modify_status {op : Byte} {f : Byte → Byte} {m : Addr} {s : State} (h : s.target (effective s m).ea = .ppu 2) :
    modify op f m s = .raised (.invalidRegisterAccess .write 0x2002)
      { s with ppu := { s.ppu with vblank := false, w := false } } := by
  have hwrite (d : Byte) : memWrite (effective s m).ea d { s with ppu := { s.ppu with vblank := false, w := false } } = _ :=
    memWrite_status d h
  simp only [modify, resolve_eq, Res.bind_ok, memRead_status h, hwrite, Res.bind_raised]

/-- R200, R207 to R210: a shift or rotate sets the carry before its write raises. -/
theorem shift_mem_status {op : Byte} {f : Byte → Bool → Shifted} {m : Addr} {s : State}
    (h : s.target (effective s m).ea = .ppu 2) :
    shift op f (.mem m) s = .raised (.invalidRegisterAccess .write 0x2002)
      { s with
        ppu := { s.ppu with vblank := false, w := false }
        p := { s.p with c := (f s.ppu.statusByte s.p.c).carry } } := by
  have hwrite (d : Byte) (c : Bool) : memWrite (effective s m).ea d
      (State.setCarry { s with ppu := { s.ppu with vblank := false, w := false } } c) = _ := memWrite_status d h
  simp only [shift, resolve_eq, Res.bind_ok, memRead_status h, hwrite, Res.bind_raised]
  rfl

/-- R341: every shape that reads a data byte raises on a read that its address does not have. -/
theorem exec_of_dataReadForm_unreadable {i : Instr} {m : Addr} {s : State} (h : dataReadForm i = some m)
    (hr : s.readable (effective s m).ea = false) : exec i s =
    .next { s with fault := some (.invalidRegisterAccess .read (canonicalAddress s (effective s m).ea)) } := by
  rcases dataReadForm_cases h with ⟨r, h⟩ | ⟨op, h⟩ | h | h | h | ⟨r, h⟩ | h | h | ⟨op, h⟩
  · rw [exec_of_loadForm h, load_raises hr, Res.outcome_raised]
  · rw [exec_of_logicForm h, logic, readSource_unreadable hr, Res.bind_raised, Res.outcome_raised]
  · rw [exec_of_bitForm h, bitTest, readSource_unreadable hr, Res.bind_raised, Res.outcome_raised]
  · rw [exec_of_adcForm h, addWithCarry, readSource_unreadable hr, Res.bind_raised, Res.outcome_raised]
  · rw [exec_of_sbcForm h, addWithCarry, readSource_unreadable hr, Res.bind_raised, Res.outcome_raised]
  · rw [exec_of_compareForm h, compare, readSource_unreadable hr, Res.bind_raised, Res.outcome_raised]
  · rw [exec_of_incForm h, modify_raises hr, Res.outcome_raised]
  · rw [exec_of_decForm h, modify_raises hr, Res.outcome_raised]
  · rw [exec_of_shiftMemForm h, shift_mem_raises hr, Res.outcome_raised]

end Sys2Proof.Machine

namespace Sys2Proof

open Sys2Proof.Machine

/-- Settles O24: the shape names the register, and `store_eq` is the next state where the address can be written. -/
theorem storeResult : Obligations.StoreResult := by
  intro i r m s hform hwritable
  rw [exec_of_storeForm hform, store_eq hwritable, Res.outcome_ok]

/-- Settles O25: the 256 copies are `oamDma_plain`, read back by `State.read_copied`. -/
theorem oamDmaCopies : Obligations.OamDmaCopies := by
  intro i r m s hform htarget hpage
  refine ⟨s.copied (s.reg r) 0 256 s.ppu.oam, ?_, fun k => ?_, fun n hn => s.read_copied_of_ge _ _ hn _ _⟩
  · rw [exec_of_storeForm hform, store_oamDma htarget, oamDma_plain hpage, Res.bind_ok, retire_eq, Res.outcome_ok]
  · have hk := k.isLt
    rw [s.read_copied _ _ _ _ (Nat.le_refl 256), if_pos (by omega), leWord_eq_ofNat]

/-- Settles O26: a page of the window has no read at its first byte, page 0x40 none at its byte 20, `oamDma_raises`. -/
theorem dmaFromRegistersRaises : Obligations.DmaFromRegistersRaises := by
  intro i r m s hform htarget hl
  have hexec : exec i s = _ := (exec_of_storeForm hform s).trans (congrArg Res.outcome (store_oamDma htarget))
  refine ⟨fun h1 h2 => ?window, fun hpage => ?page40⟩
  case window =>
    have ht : s.target (leWord (BitVec.ofNat 8 0) (s.reg r)) = .ppu 0 := State.target_windowPage hl h1 h2
    rw [hexec, oamDma_raises (by decide) (fun k hk => absurd hk (Nat.not_lt_zero k)) (State.readable_of_target_ppu ht),
      canonicalAddress_of_target_ppu ht]
    rfl
  case page40 =>
    have haddr (k : Byte) : (leWord k 0x40).toNat = 0x4000 + k.toNat := by
      rw [toNat_leWord]
      exact Nat.add_comm _ _
    have hsmall (k : Byte) (hk : k.toNat < 20) : leWord k 0x40 ≠ 0x4014 := by
      intro h
      have := haddr k
      rw [h] at this
      simp at this
      omega
    have ht : s.target (leWord (BitVec.ofNat 8 20) 0x40) = .oamDma := busTarget_oamDma (by omega)
    have hplain (k : Nat) (hk : k < 20) : s.plain (leWord (BitVec.ofNat 8 k) 0x40) = true :=
      s.plain_of_toNat _ (.inr (by rw [haddr]; omega)) (hsmall _ (by rw [BitVec.toNat_ofNat]; omega))
    refine ⟨s.copied 0x40 0 20 s.ppu.oam, ?_, fun k => ?_⟩
    · rw [hexec, hpage, oamDma_raises (by decide) hplain (State.readable_of_target_oamDma ht),
        canonicalAddress_of_target_oamDma ht]
      rfl
    · rw [s.read_copied _ _ _ _ (by decide)]
      by_cases hk : k.toNat < 20
      · rw [if_pos (by omega), if_pos hk, State.byteAt_ext (by rw [haddr]; omega) (.inr (by rw [haddr]; omega)) (hsmall k hk), haddr]
      · rw [if_neg (by omega), if_neg hk]

/-- Settles O39: a store raises at once (`store_raises`); the shapes of R200 read first (`modify_status`, `shift_mem_status`). -/
theorem writeToStatusRaises : Obligations.WriteToStatusRaises := by
  refine ⟨fun i r m s hform ht => ?store, fun i m s hform ht => ?modify⟩
  case store => rw [exec_of_storeForm hform, store_raises ht, Res.outcome_raised]
  case modify =>
    rcases modifyForm_cases hform with h | h | ⟨op, h⟩
    · rw [exec_of_incForm h, modify_status ht, Res.outcome_raised]
      exact ⟨_, rfl, rfl, rfl, rfl, rfl, rfl, rfl, rfl, rfl, rfl, rfl⟩
    · rw [exec_of_decForm h, modify_status ht, Res.outcome_raised]
      exact ⟨_, rfl, rfl, rfl, rfl, rfl, rfl, rfl, rfl, rfl, rfl, rfl⟩
    · rw [exec_of_shiftMemForm h, shift_mem_status ht, Res.outcome_raised]
      exact ⟨_, rfl, rfl, rfl, rfl, rfl, rfl, rfl, rfl, rfl, rfl, rfl⟩

/-- Settles O48: by shape (`exec_of_dataReadForm_unreadable`); an indirect jump raises at the first or at the second of its two
reads. -/
theorem unreadableOperandRaises : Obligations.UnreadableOperandRaises := by
  intro i m ptr high s
  refine ⟨exec_of_dataReadForm_unreadable, fun hr => ?low, ?high⟩
  case low => simp only [exec_jmpInd, resolveIndirect, memRead_unreadable hr, Res.bind_raised, Res.outcome_raised]
  case high =>
    rintro rfl hlow hhigh
    rw [← leWord_pageWrap] at hhigh ⊢
    have hraise := memRead_unreadable ((State.readable_afterRead s ptr _).trans hhigh)
    have hcanon := canonicalAddress_congr (State.target_afterRead s ptr (leWord (loByte ptr + 1) (hiByte ptr)))
    simp only [exec_jmpInd, resolveIndirect, memRead_readable hlow, Res.bind_ok, hraise, hcanon, Res.bind_raised,
      Res.outcome_raised]

end Sys2Proof
end

section
/-!
PROOFS. Returns undo calls (R222, R224, R234, R346): the bytes pushed are the bytes pulled, in the opposite order, wherever SP
stands; and the copy of P that is pushed is what RTI loads, with U = 1 and B = 0.
-/
namespace Sys2Proof.Machine

/-! ## Pushed bytes read back -/

theorem stackAddress_inj {p q : Byte} (h : stackAddress p = stackAddress q) : p = q := by
  have ht := congrArg BitVec.toNat h
  rw [toNat_stackAddress, toNat_stackAddress] at ht
  exact BitVec.eq_of_toNat_eq (by omega)

/-- R24, R74: the 256 stack addresses name different bytes. -/
theorem State.target_stackAddress_inj {s : State} {p q : Byte} (h : s.target (stackAddress p) = s.target (stackAddress q)) :
    p = q := by
  have hlt (r : Byte) : (stackAddress r).toNat < 0x800 := by
    have := r.isLt
    rw [toNat_stackAddress]
    omega
  exact stackAddress_inj (State.target_inj (hlt p) (hlt q) h)

/-- A byte pushed is at its stack address, and the other bytes of the stack page are as before. -/
theorem State.byteAt_pushed_one (s : State) (d p : Byte) :
    (s.pushed [d]).byteAt (stackAddress p) = if p = s.sp then d else s.byteAt (stackAddress p) := by
  have hiff : s.target (stackAddress p) = s.target (stackAddress s.sp) ↔ p = s.sp :=
    ⟨State.target_stackAddress_inj, fun h => h ▸ rfl⟩
  have hpoke : (s.pushed [d]).byteAt (stackAddress p) = (pokeByte (stackAddress s.sp) d s).byteAt (stackAddress p) :=
    State.byteAt_congr rfl rfl rfl _
  rw [hpoke, State.byteAt_pokeByte _ _ _ _ (State.plain_stackAddress s s.sp)]
  simp only [hiff]

/-- R170, R171: the first pull after a push gives the byte pushed. -/
theorem State.stacked_one_pushed (s : State) (d : Byte) : (s.pushed [d]).stacked 1 = d := by
  have hsp : (s.pushed [d]).sp + 1 = s.sp := BitVec.sub_add_cancel s.sp 1
  rw [State.stacked, hsp, State.byteAt_pushed_one, if_pos rfl]

/-- R170, R171: the pulls after it give what they would have given before the push. -/
theorem State.stacked_succ_pushed (s : State) (d : Byte) {k : Byte} (hk : k ≠ 0) :
    (s.pushed [d]).stacked (k + 1) = s.stacked k := by
  have hsp : (s.pushed [d]).sp + (k + 1) = s.sp + k := by
    show s.sp - 1 + (k + 1) = s.sp + k
    bv_omega
  have hne : s.sp + k ≠ s.sp := by bv_omega
  rw [State.stacked, hsp, State.byteAt_pushed_one, if_neg hne, State.stacked]

/-- What two pulls give after two pushes. -/
theorem State.stacked_pushed_two (s : State) (a b : Byte) :
    (s.pushed [a, b]).stacked 1 = b ∧ (s.pushed [a, b]).stacked 2 = a :=
  ⟨(s.pushed [a]).stacked_one_pushed b,
    ((s.pushed [a]).stacked_succ_pushed b (k := 1) (by decide)).trans (s.stacked_one_pushed a)⟩

/-- What three pulls give after three pushes. -/
theorem State.stacked_pushed_three (s : State) (a b c : Byte) : (s.pushed [a, b, c]).stacked 1 = c ∧
    (s.pushed [a, b, c]).stacked 2 = b ∧ (s.pushed [a, b, c]).stacked 3 = a :=
  ⟨(s.pushed [a, b]).stacked_one_pushed c,
    ((s.pushed [a, b]).stacked_succ_pushed c (k := 1) (by decide)).trans (s.stacked_pushed_two a b).1,
    ((s.pushed [a, b]).stacked_succ_pushed c (k := 2) (by decide)).trans (s.stacked_pushed_two a b).2⟩

/-! ## The pushed copy of P -/

/-- R31, R175: the copy that BRK and PHP push has the flags of P, beside bits 4 and 5. -/
theorem Flags.pulled_pushedBySoftware (p : Flags) : Flags.pulled p.pushedBySoftware = { p with u := true, b := false } := by
  simp only [Flags.pulled_eq, Flags.pushedBySoftware, BitVec.getLsbD_or, Flags.getLsbD_toByte]
  simp

/-- R31, R335: and so does the copy that NMI entry pushes. -/
theorem Flags.pulled_pushedByNmi (p : Flags) : Flags.pulled p.pushedByNmi = { p with u := true, b := false } := by
  simp only [Flags.pulled_eq, Flags.pushedByNmi, BitVec.getLsbD_or, BitVec.getLsbD_and, Flags.getLsbD_toByte]
  simp

/-! ## Returning -/

/-- R222: what RTS leaves after a word was pushed, whatever PC is. -/
theorem exec_rts_after_push {s t : State} {w : Word} (hsp : t.sp = (s.pushed [hiByte w, loByte w]).sp)
    (hbytes : ∀ a, t.byteAt a = (s.pushed [hiByte w, loByte w]).byteAt a) :
    ∃ u, exec .rts t = .next u ∧ u.pc = w + 1 ∧ u.sp = s.sp := by
  have hstacked (k : Byte) : t.stacked k = (s.pushed [hiByte w, loByte w]).stacked k := by
    rw [State.stacked, State.stacked, hsp, hbytes]
  obtain ⟨h1, h2⟩ := s.stacked_pushed_two (hiByte w) (loByte w)
  rw [exec_rts, pull16_eq, Res.bind_ok, retire_eq, Res.outcome_ok, hstacked, hstacked, h1, h2, leWord_loByte_hiByte]
  refine ⟨_, rfl, rfl, ?_⟩
  show t.sp + 2 = s.sp
  rw [hsp]
  show s.sp - 1 - 1 + 2 = s.sp
  bv_omega

/-- R224: what RTI leaves after a word and a copy of P were pushed, whatever PC is. -/
theorem exec_rti_after_push {s t : State} {w : Word} {d : Byte} (hsp : t.sp = (s.pushed [hiByte w, loByte w, d]).sp)
    (hbytes : ∀ a, t.byteAt a = (s.pushed [hiByte w, loByte w, d]).byteAt a) :
    ∃ u, exec .rti t = .next u ∧ u.pc = w ∧ u.sp = s.sp ∧ u.p = Flags.pulled d := by
  have hstacked (k : Byte) : t.stacked k = (s.pushed [hiByte w, loByte w, d]).stacked k := by
    rw [State.stacked, State.stacked, hsp, hbytes]
  obtain ⟨h1, h2, h3⟩ := s.stacked_pushed_three (hiByte w) (loByte w) d
  rw [exec_rti, returnFromTrap_eq, Res.bind_ok, retire_eq, Res.outcome_ok, hstacked, hstacked, hstacked, h1, h2, h3,
    leWord_loByte_hiByte]
  refine ⟨_, rfl, rfl, ?_, rfl⟩
  show t.sp + 3 = s.sp
  rw [hsp]
  show s.sp - 1 - 1 - 1 + 3 = s.sp
  bv_omega

end Sys2Proof.Machine

namespace Sys2Proof

open Sys2Proof.Machine

/-- Settles O45: the handler changes PC alone, so the return finds on the stack what the call pushed (`exec_rts_after_push`,
`exec_rti_after_push`). -/
theorem returnsUndoCalls : Obligations.ReturnsUndoCalls := by
  intro s a handler
  refine ⟨?jsr, ?brk, ?nmi⟩
  case jsr =>
    rw [exec_jsr, push16_eq, Res.bind_ok, retire_eq, Res.outcome_ok]
    refine ⟨_, (exec_rts_after_push (s := s) (w := s.pc - 1) ?_ ?_).imp fun u ⟨hu, hpc, hsp⟩ =>
      ⟨rfl, hu, hpc.trans (BitVec.sub_add_cancel s.pc 1), hsp⟩⟩
    · rfl
    · exact fun _ => State.byteAt_congr rfl rfl rfl _
  case brk =>
    rw [exec_brk, enterTrap_brk, Res.bind_ok, retire_eq, Res.outcome_ok]
    refine ⟨_, (exec_rti_after_push (s := s) (w := s.pc + 1) ?_ ?_).imp fun u ⟨hu, hpc, hsp, hp⟩ =>
      ⟨rfl, hu, hpc, hsp, hp.trans s.p.pulled_pushedBySoftware⟩⟩
    · rfl
    · exact fun _ => State.byteAt_congr rfl rfl rfl _
  case nmi =>
    rw [nmiEntry, enterTrap_eq _ _ _ _ (by decide) (by decide), Res.bind_ok]
    refine ⟨_, (exec_rti_after_push (s := s) (w := s.pc) ?_ ?_).imp fun u ⟨hu, hpc, hsp, hp⟩ =>
      ⟨rfl, hu, hpc, hsp, hp.trans s.p.pulled_pushedByNmi⟩⟩
    · rfl
    · exact fun _ => State.byteAt_congr rfl rfl rfl _

end Sys2Proof
end

section
/-!
PROOFS. The cost of an instruction and the count of owed cycles (R33, R113, R131, R266, R322): the standard row of an opcode in
closed form, what a bus access and then an instruction adds to the count, and what a step leaves of it.
-/
namespace Sys2Proof

/-! ## The standard rows -/

/-- The mnemonic and the mode of an instruction are those of its entry in the matrix, whatever the operands. -/
theorem Form.sample_of_opcode (i : Instr) :
    ∃ f, formOf i.opcode = some f ∧ f.sample.mnemonic = i.mnemonic ∧ f.sample.mode = i.mode := by
  cases i <;> exact ⟨_, rfl, rfl, rfl⟩

/-- The row of CYCLES that the closed form of R113 gives an instruction. -/
def Instr.standardRow (i : Instr) : CycleRow := ⟨i.baseCycles, i.paysPageCross, decide (i.mode = .rel)⟩

/-- R113: a row costs two cycles at least, and at most seven with its penalties. -/
def CycleRow.inRange (r : CycleRow) : Bool :=
  decide (2 ≤ r.base) && decide (r.base + Machine.carryNat r.pageCross + 2 * Machine.carryNat r.branch ≤ 7)

/-- Byte by byte of the matrix: the standard table has the row of the closed form, and it is in range. -/
theorem findCycles_sample : ∀ op : Byte, (formOf op).all fun f =>
    decide (Machine.findCycles op Machine.standardCycles = some f.sample.standardRow) && f.sample.standardRow.inRange := by
  decide +kernel

/-- R113: the standard row of every instruction. -/
theorem findCycles_opcode (i : Instr) : Machine.findCycles i.opcode Machine.standardCycles = some i.standardRow ∧
    i.standardRow.inRange = true := by
  obtain ⟨f, hf, hmn, hmd⟩ := Form.sample_of_opcode i
  have hrow : f.sample.standardRow = i.standardRow := by
    simp only [Instr.standardRow, Instr.baseCycles, Instr.paysPageCross, hmn, hmd]
  have h := findCycles_sample i.opcode
  rw [hf, Option.all_some, hrow, Bool.and_eq_true, decide_eq_true_eq] at h
  exact h

end Sys2Proof

namespace Sys2Proof.Machine

/-- The extra cycles an instruction may pass to its cost: one or two of a taken branch (R225). -/
def extraBound (i : Instr) : Nat := if i.mode = .rel then 2 else 0

/-- R131: with the standard table, the cost of an instruction in closed form. -/
theorem cost_standard {l : Launch} (hl : l.cycleRows = []) (i : Instr) {crossed : Bool} {extra : Nat}
    (he : extra ≤ extraBound i) : cost l i.opcode crossed extra =
      i.baseCycles + (if i.paysPageCross && crossed then 1 else 0) + extra := by
  have hof : cyclesOf l i.opcode = i.standardRow := by simp only [cyclesOf, hl, findCycles, (findCycles_opcode i).1, Option.getD_some]
  rw [cost, hof, Instr.standardRow]
  by_cases hrel : i.mode = .rel
  · simp only [hrel, decide_true, if_true]
  · rw [extraBound, if_neg hrel] at he
    simp only [hrel, decide_false, Bool.false_eq_true, if_false, Nat.le_zero.mp he]

/-- R113: with the standard table an instruction costs 2 to 7 cycles. -/
theorem cost_standard_bounds {l : Launch} (hl : l.cycleRows = []) (i : Instr) (crossed : Bool) {extra : Nat}
    (he : extra ≤ extraBound i) : 2 ≤ cost l i.opcode crossed extra ∧ cost l i.opcode crossed extra ≤ 7 := by
  have hrange := (findCycles_opcode i).2
  rw [CycleRow.inRange, Bool.and_eq_true, decide_eq_true_eq, decide_eq_true_eq] at hrange
  obtain ⟨hlow, hhigh⟩ : 2 ≤ i.baseCycles ∧
    i.baseCycles + carryNat i.paysPageCross + 2 * carryNat (decide (i.mode = .rel)) ≤ 7 := hrange
  have hpage : (if i.paysPageCross && crossed then 1 else 0) ≤ carryNat i.paysPageCross := by
    cases i.paysPageCross <;> cases crossed <;> decide
  have hextra : extraBound i = 2 * carryNat (decide (i.mode = .rel)) := by
    unfold extraBound carryNat
    by_cases hrel : i.mode = .rel <;> simp [hrel]
  rw [cost_standard hl i he]
  omega

/-! ## What a bus access can do -/

/-- R68, R73: a read answers a byte and touches at most the PPU, or raises and touches nothing. -/
theorem memRead_cases (a : Word) (s : State) :
    (∃ d p, memRead a s = .ok d { s with ppu := p }) ∨ ∃ f, memRead a s = .raised f s := by
  cases h : s.readable a with
  | false => exact .inr ⟨_, memRead_unreadable h⟩
  | true =>
    obtain ⟨p, hp⟩ := Source.after_cases (.mem (.abs a)) s
    exact .inl ⟨_, p, (memRead_readable h).trans (congrArg _ hp)⟩

/-- R264: the copies of a DMA touch at most the PPU, whether or not they end. -/
theorem oamCopy_cases (page : Byte) (count : Nat) : ∀ (first : Nat) (s : State),
    (∃ p, oamCopy page first count s = .ok () { s with ppu := p }) ∨
      ∃ f p, oamCopy page first count s = .raised f { s with ppu := p } := by
  induction count with
  | zero => exact fun _ s => .inl ⟨s.ppu, rfl⟩
  | succ n ih =>
    intro first s
    rw [oamCopy]
    rcases memRead_cases (leWord (BitVec.ofNat 8 first) page) s with ⟨d, p, h⟩ | ⟨f, h⟩
    · rw [h, Res.bind_ok]
      rcases ih (first + 1) _ with ⟨q, hq⟩ | ⟨f, q, hq⟩
      · exact .inl ⟨q, hq⟩
      · exact .inr ⟨f, q, hq⟩
    · rw [h, Res.bind_raised]
      exact .inr ⟨f, s.ppu, rfl⟩

/-- R69: a write stores a byte of plain storage, or touches at most the PPU; one to 0x4014 adds the DMA stall when it ends; where
it raises, it has touched at most the PPU. -/
theorem memWrite_cases (a : Word) (d : Byte) (s : State) :
    (s.plain a = true ∧ memWrite a d s = .ok () (pokeByte a d s)) ∨
      (∃ p stall, (stall = 0 ∨ stall = s.launch.dmaStallCycles) ∧
        memWrite a d s = .ok () { s with ppu := p, cyclesRemaining := s.cyclesRemaining + stall }) ∨
      ∃ f p, memWrite a d s = .raised f { s with ppu := p } := by
  cases ht : s.target a with
  | ram i =>
    have hp : s.plain a = true := by rw [State.plain, State.peek, ht]; rfl
    exact .inl ⟨hp, memWrite_plain d hp⟩
  | ext i =>
    have hp : s.plain a = true := by rw [State.plain, State.peek, ht]; rfl
    exact .inl ⟨hp, memWrite_plain d hp⟩
  | ppu index =>
    cases hw : ppuRegWrite s.launch index d s.ppu with
    | none => exact .inr (.inr ⟨_, s.ppu, memWrite_register_none ht hw⟩)
    | some p => exact .inr (.inl ⟨p, 0, .inl rfl, memWrite_register ht hw⟩)
  | oamDma =>
    rw [memWrite_oamDma d ht, oamDma]
    rcases oamCopy_cases d 256 0 s with ⟨p, h⟩ | ⟨f, p, h⟩
    · exact .inr (.inl ⟨p, _, .inr rfl, by rw [h, Res.bind_ok]⟩)
    · exact .inr (.inr ⟨f, p, by rw [h, Res.bind_raised]⟩)

/-! ## What an instruction adds to the count -/

/-- A micro-operation that leaves the count of owed cycles and the launch parameters, whether or not it raises. -/
def Res.quiet {α : Type} (s : State) (r : Res α) : Prop := r.left.cyclesRemaining = s.cyclesRemaining ∧ r.left.launch = s.launch

theorem Res.quiet_bind {α β : Type} {s : State} {r : Res α} {k : α → State → Res β} (h : r.quiet s)
    (hk : ∀ v t, t.cyclesRemaining = s.cyclesRemaining ∧ t.launch = s.launch → (k v t).quiet s) : (r.bind k).quiet s := by
  cases r with
  | ok v t => exact hk v t h
  | raised f t => exact h

theorem memRead_quiet {s t : State} (a : Word) (h : t.cyclesRemaining = s.cyclesRemaining ∧ t.launch = s.launch) :
    (memRead a t).quiet s := by
  rcases memRead_cases a t with ⟨d, p, hr⟩ | ⟨f, hr⟩ <;> rw [hr] <;> exact h

theorem readSource_quiet (src : Source) (s : State) : (readSource src s).quiet s := by
  cases src with
  | imm m => exact ⟨rfl, rfl⟩
  | mem m =>
    rw [readSource, resolve_eq, Res.bind_ok]
    exact Res.quiet_bind (memRead_quiet _ ⟨rfl, rfl⟩) fun _ _ h => h

theorem resolveIndirect_quiet (ptr : Word) (s : State) : (resolveIndirect ptr s).quiet s :=
  Res.quiet_bind (memRead_quiet _ ⟨rfl, rfl⟩) fun _ _ h => Res.quiet_bind (memRead_quiet _ h) fun _ _ h => h

theorem fetchByte_quiet {s t : State} (h : t.cyclesRemaining = s.cyclesRemaining ∧ t.launch = s.launch) :
    (fetchByte t).quiet s :=
  Res.quiet_bind (memRead_quiet _ h) fun _ _ h => h

theorem fetch_quiet (s : State) : (fetch s).quiet s := by
  refine Res.quiet_bind (fetchByte_quiet ⟨rfl, rfl⟩) fun op t h => ?_
  split
  · exact h
  · exact h
  · exact Res.quiet_bind (memRead_quiet _ h) fun _ _ h => h
  · exact Res.quiet_bind (fetchByte_quiet h) fun _ _ h => h
  · exact Res.quiet_bind (fetchByte_quiet h) fun _ _ h => Res.quiet_bind (fetchByte_quiet h) fun _ _ h => h

/-- What an instruction adds to the count of owed cycles (R131, R266): its cost and at most one DMA stall where it completes,
nothing where it raises. -/
def Res.costs (i : Instr) (s : State) : Res Unit → Prop
  | .ok _ t => ∃ stall crossed extra, (stall = 0 ∨ stall = s.launch.dmaStallCycles) ∧ extra ≤ extraBound i ∧
      t.cyclesRemaining = s.cyclesRemaining + stall + cost s.launch i.opcode crossed extra
  | .raised _ t => t.cyclesRemaining = s.cyclesRemaining

theorem Res.costs_bind {α : Type} {i : Instr} {s : State} {r : Res α} {k : α → State → Res Unit} (h : r.quiet s)
    (hk : ∀ v t, t.cyclesRemaining = s.cyclesRemaining ∧ t.launch = s.launch → (k v t).costs i s) :
    (r.bind k).costs i s := by
  cases r with
  | ok v t => exact hk v t h
  | raised f t => exact h.1

/-- The end of an instruction with nothing stalled. -/
theorem costs_retire {i : Instr} {s t : State} (crossed : Bool)
    (h : t.cyclesRemaining = s.cyclesRemaining ∧ t.launch = s.launch) : (retire i.opcode crossed 0 t).costs i s :=
  ⟨0, crossed, 0, .inl rfl, Nat.zero_le _, by rw [← h.1, ← h.2]; rfl⟩

/-- The end of an instruction after its write, whose registers `f` sets. -/
theorem costs_memWrite {i : Instr} {s t : State} (a : Word) (d : Byte) (crossed : Bool) (f : State → State)
    (hf : ∀ u, (f u).cyclesRemaining = u.cyclesRemaining ∧ (f u).launch = u.launch)
    (h : t.cyclesRemaining = s.cyclesRemaining ∧ t.launch = s.launch) :
    ((memWrite a d t).bind fun _ u => retire i.opcode crossed 0 (f u)).costs i s := by
  rcases memWrite_cases a d t with ⟨-, hw⟩ | ⟨p, stall, hstall, hw⟩ | ⟨g, p, hw⟩
  · rw [hw]
    refine costs_retire crossed ⟨(hf _).1.trans ?_, (hf _).2.trans ?_⟩
    · rw [pokeByte_cyclesRemaining, h.1]
    · rw [pokeByte_launch, h.2]
  · rw [hw]
    refine ⟨stall, crossed, 0, h.2 ▸ hstall, Nat.zero_le _, ?_⟩
    show (f _).cyclesRemaining + cost (f _).launch i.opcode crossed 0 = _
    rw [(hf _).1, (hf _).2, ← h.1, ← h.2]
  · rw [hw]
    exact h.1

theorem mode_of_branchForm {p : Flags} {i : Instr} {taken : Bool} {d : Byte} (h : branchForm p i = some (taken, d)) :
    i.mode = .rel := by
  unfold branchForm at h
  split at h <;> cases h <;> rfl

/-- Body by body: every instruction adds its cost to the count. -/
theorem Runs.costs {i : Instr} {b : State → Res Unit} (hb : Runs i b) (s : State) : (b s).costs i s := by
  cases hb with
  | load r src _ =>
    exact Res.costs_bind (readSource_quiet src s) fun _ _ h => costs_retire _
      (by rwa [State.cyclesRemaining_setNZ, State.cyclesRemaining_setReg, State.launch_setNZ, State.launch_setReg])
  | store r m _ =>
    rw [Machine.store, resolve_eq, Res.bind_ok]
    exact costs_memWrite _ _ _ id (fun _ => ⟨rfl, rfl⟩) ⟨rfl, rfl⟩
  | transfer r q _ => exact costs_retire _ ⟨State.cyclesRemaining_setReg s r _, State.launch_setReg s r _⟩
  | tsx _ => exact costs_retire _ ⟨rfl, rfl⟩
  | txs _ => exact costs_retire _ ⟨rfl, rfl⟩
  | pha _ =>
    simp only [push_eq, Res.bind_ok]
    exact costs_retire _ ⟨pokeByte_cyclesRemaining _ _ s, pokeByte_launch _ _ s⟩
  | php _ =>
    simp only [push_eq, Res.bind_ok]
    exact costs_retire _ ⟨pokeByte_cyclesRemaining _ _ s, pokeByte_launch _ _ s⟩
  | pla _ => simp only [pull_eq, Res.bind_ok]; exact costs_retire _ ⟨rfl, rfl⟩
  | plp _ => simp only [pull_eq, Res.bind_ok]; exact costs_retire _ ⟨rfl, rfl⟩
  | logic op src _ => exact Res.costs_bind (readSource_quiet src s) fun _ _ h => costs_retire _ h
  | bit src _ => exact Res.costs_bind (readSource_quiet src s) fun _ _ h => costs_retire _ h
  | adc src _ => exact Res.costs_bind (readSource_quiet src s) fun _ _ h => costs_retire _ h
  | sbc src _ => exact Res.costs_bind (readSource_quiet src s) fun _ _ h => costs_retire _ h
  | compare r src _ => exact Res.costs_bind (readSource_quiet src s) fun _ _ h => costs_retire _ h
  | inc m _ =>
    rw [Machine.modify, resolve_eq, Res.bind_ok]
    exact Res.costs_bind (memRead_quiet _ ⟨rfl, rfl⟩) fun d _ h => costs_memWrite _ _ _ (State.setNZ · (d + 1)) (fun _ => ⟨rfl, rfl⟩) h
  | dec m _ =>
    rw [Machine.modify, resolve_eq, Res.bind_ok]
    exact Res.costs_bind (memRead_quiet _ ⟨rfl, rfl⟩) fun d _ h => costs_memWrite _ _ _ (State.setNZ · (d - 1)) (fun _ => ⟨rfl, rfl⟩) h
  | stepReg r up _ => exact costs_retire _ ⟨State.cyclesRemaining_setReg s r _, State.launch_setReg s r _⟩
  | shiftAcc op _ => exact costs_retire _ ⟨rfl, rfl⟩
  | shiftMem op m _ =>
    rw [Machine.shift, resolve_eq, Res.bind_ok]
    exact Res.costs_bind (memRead_quiet _ ⟨rfl, rfl⟩) fun d t h =>
      costs_memWrite _ _ _ (State.setNZ · (op.result d t.p.c)) (fun _ => ⟨rfl, rfl⟩) h
  | jmpAbs a _ => exact costs_retire _ ⟨rfl, rfl⟩
  | jmpInd a _ => exact Res.costs_bind (resolveIndirect_quiet a s) fun _ _ h => costs_retire _ h
  | jsr a _ =>
    simp only [push16_eq, Res.bind_ok]
    exact costs_retire _ ⟨State.cyclesRemaining_pushed _ s, State.launch_pushed _ s⟩
  | rts _ => simp only [pull16_eq, Res.bind_ok]; exact costs_retire _ ⟨rfl, rfl⟩
  | brk _ =>
    simp only [enterTrap_brk, Res.bind_ok]
    exact costs_retire _ ⟨State.cyclesRemaining_pushed _ s, State.launch_pushed _ s⟩
  | rti _ => simp only [returnFromTrap_eq, Res.bind_ok]; exact costs_retire _ ⟨rfl, rfl⟩
  | branch d taken h =>
    have hextra : branchExtra s (branchTarget d s) ≤ extraBound i := by
      rw [extraBound, if_pos (mode_of_branchForm (h s.p)), branchExtra_eq]
      split <;> decide
    show (Machine.branch i.opcode (taken s.p) d s).costs i s
    rw [branch_eq]
    refine ⟨0, false, _, .inl rfl, ?_, rfl⟩
    split
    · exact hextra
    · exact Nat.zero_le _
  | flag f _ => exact costs_retire _ ⟨rfl, rfl⟩
  | nop _ => exact costs_retire _ ⟨rfl, rfl⟩

/-- What an instruction leaves of the count: its cost and at most one DMA stall more, or a fault and the count as it was. -/
theorem exec_cyclesRemaining {i : Instr} {s t : State} (ht : exec i s = .next t) :
    (∃ stall crossed extra, (stall = 0 ∨ stall = s.launch.dmaStallCycles) ∧ extra ≤ extraBound i ∧
      t.cyclesRemaining = s.cyclesRemaining + stall + cost s.launch i.opcode crossed extra) ∨
    (t.fault ≠ none ∧ t.cyclesRemaining = s.cyclesRemaining) := by
  obtain ⟨b, hb, hexec⟩ := runs_exec i
  have hcosts := hb.costs s
  rw [hexec] at ht
  cases hr : b s with
  | ok v u => rw [hr] at ht hcosts; cases ht; exact .inl hcosts
  | raised f u => rw [hr] at ht hcosts; cases ht; exact .inr ⟨Option.some_ne_none f, hcosts⟩

/-- What an instruction-step leaves of the count: as an instruction does, for the fetch leaves it. -/
theorem instructionStep_cyclesRemaining {s t : State} (ht : instructionStep s = .next t) :
    (∃ i stall crossed extra, (stall = 0 ∨ stall = s.launch.dmaStallCycles) ∧ extra ≤ extraBound i ∧
      t.cyclesRemaining = s.cyclesRemaining + stall + cost s.launch i.opcode crossed extra) ∨
    (t.fault ≠ none ∧ t.cyclesRemaining = s.cyclesRemaining) := by
  obtain ⟨hcycles, hlaunch⟩ := fetch_quiet s
  unfold instructionStep at ht
  split at ht
  · rename_i i u hu
    rw [hu, Res.left_ok] at hcycles hlaunch
    rw [← hcycles, ← hlaunch]
    exact (exec_cyclesRemaining ht).imp_left fun h => ⟨i, h⟩
  · rename_i f u hu
    rw [hu, Res.left_raised] at hcycles
    cases ht
    exact .inr ⟨Option.some_ne_none f, hcycles⟩

end Sys2Proof.Machine

namespace Sys2Proof

open Sys2Proof.Machine

/-- Settles O15: an instruction adds at most 7 and one stall to a count of 0, NMI entry owes at most 7, and the end of a step
only counts down. -/
theorem owedCyclesBounded : Obligations.OwedCyclesBounded := by
  intro s t hrows hnmi hcount hstep
  rw [stepKeepsLaunch s t hstep]
  obtain ⟨-, u, rfl, hu⟩ := step_cases hstep
  have hbound : u.cyclesRemaining ≤ 7 + s.launch.dmaStallCycles := by
    rcases hu with ⟨-, rfl⟩ | ⟨-, -, hu⟩ | ⟨hc, -, hu⟩
    · exact hcount
    · rw [nmiStep_eq] at hu
      cases hu
      exact Nat.le_add_right_of_le hnmi
    · rcases instructionStep_cyclesRemaining hu with ⟨i, stall, crossed, extra, hstall, hextra, hu⟩ | ⟨-, hu⟩
      · have hcost := (cost_standard_bounds hrows i crossed hextra).2
        omega
      · omega
  refine endStep_cases (P := fun v => v.cyclesRemaining ≤ 7 + s.launch.dmaStallCycles) u hbound ?_
  rw [iterate_cyclesRemaining]
  exact (Nat.sub_le _ _).trans hbound

/-- Settles O49: the standard cost is `cost_standard` in the range of `cost_standard_bounds`; with every row a count of 1 and no
stall, what a step begins at a count of 0 leaves 1, and its end counts that down. -/
theorem instructionCost : Obligations.InstructionCost := by
  refine ⟨fun l i crossed extra hl he => ⟨cost_standard hl i he, cost_standard_bounds hl i crossed he⟩,
    fun s t hrows hnmi hstall hc hstep hf => ?_⟩
  obtain ⟨-, u, rfl, hu⟩ := step_cases hstep
  have hfault : u.fault = none := by
    by_contra h
    obtain ⟨f, hf'⟩ := Option.ne_none_iff_exists'.mp h
    rw [endStep_some hf'] at hf
    exact h hf
  have hone : u.cyclesRemaining = 1 := by
    rcases hu with ⟨hpos, -⟩ | ⟨-, -, hu⟩ | ⟨-, -, hu⟩
    · omega
    · rw [nmiStep_eq] at hu
      cases hu
      exact hnmi
    · rcases instructionStep_cyclesRemaining hu with ⟨i, stall, crossed, extra, hs, -, hu⟩ | ⟨h, -⟩
      · rw [hu, hc, cost, hrows i]
        simp only [Bool.false_and, Bool.false_eq_true, if_false]
        omega
      · exact absurd hfault h
  rw [endStep_none hfault, iterate_cyclesRemaining, hone]

end Sys2Proof
end

section
/-!
PROOFS. The frame of every instruction (R21 to R24, R29, R72): which flags and registers it writes, and which bytes of storage. The
frame is carried through the parts of each body: a part that writes a flag or a register asks that the mnemonic may write it.
-/
namespace Sys2Proof.Machine

/-- A byte of storage that a store does not name reads as before. -/
theorem State.byteAt_pokeByte_ne {s : State} {a b : Word} {d : Byte} (h : s.target b ≠ s.target a) :
    (pokeByte a d s).byteAt b = s.byteAt b := by
  cases hp : s.plain a with
  | true => rw [State.byteAt_pokeByte s a b d hp, if_neg h]
  | false =>
    have hpoke : pokeByte a d s = s := by
      unfold pokeByte
      cases ht : s.target a <;> simp [State.plain, State.peek, ht] at hp ⊢
    rw [hpoke]

/-! ## The frame -/

/-- R29: the instructions that write C. -/
def carryWriters : List Mnemonic := [.adc, .sbc, .cmp, .cpx, .cpy, .asl, .lsr, .rol, .ror, .clc, .sec, .plp, .rti]

/-- R29, R30: the instructions that write Z and N. -/
def nzWriters : List Mnemonic :=
  [.lda, .ldx, .ldy, .tax, .tay, .txa, .tya, .tsx, .pla, .and, .ora, .eor, .adc, .sbc, .cmp, .cpx, .cpy, .bit,
    .inc, .inx, .iny, .dec, .dex, .dey, .asl, .lsr, .rol, .ror, .plp, .rti]

/-- R29: the instructions that write I. -/
def interruptWriters : List Mnemonic := [.sei, .cli, .brk, .plp, .rti]

/-- R29: the instructions that write D. -/
def decimalWriters : List Mnemonic := [.sed, .cld, .plp, .rti]

/-- R29: the instructions that write V. -/
def overflowWriters : List Mnemonic := [.adc, .sbc, .bit, .clv, .plp, .rti]

/-- R21 to R23: the instructions that write a register. -/
def Reg.writers : Reg → List Mnemonic
  | .a => [.lda, .txa, .tya, .pla, .and, .ora, .eor, .adc, .sbc, .asl, .lsr, .rol, .ror]
  | .x => [.ldx, .tax, .tsx, .inx, .dex]
  | .y => [.ldy, .tay, .iny, .dey]

/-- R24: the instructions that write SP. -/
def stackWriters : List Mnemonic := [.txs, .pha, .php, .pla, .plp, .jsr, .rts, .brk, .rti]

/-- The instructions other than branches that write PC (R220 to R224). -/
def jumpWriters : List Mnemonic := [.jmp, .jsr, .rts, .brk, .rti]

/-- The flags that a mnemonic may leave in place of given ones (R29, R31). -/
structure FlagFrame (m : Mnemonic) (p q : Flags) : Prop where
  c : m ∉ carryWriters → q.c = p.c
  nz : m ∉ nzWriters → q.z = p.z ∧ q.n = p.n
  i : m ∉ interruptWriters → q.i = p.i
  d : m ∉ decimalWriters → q.d = p.d
  v : m ∉ overflowWriters → q.v = p.v
  ub : p.u = true → p.b = false → q.u = true ∧ q.b = false

/-- What an instruction may make of a state on its way: registers, flags and storage by what it writes; the rest of the machine is
left open. -/
structure Frame (i : Instr) (s t : State) : Prop where
  flags : FlagFrame i.mnemonic s.p t.p
  reg : ∀ r : Reg, i.mnemonic ∉ r.writers → t.reg r = s.reg r
  sp : i.mnemonic ∉ stackWriters → t.sp = s.sp
  pc : i.mode = .rel ∨ i.mnemonic ∈ jumpWriters ∨ t.pc = s.pc
  launch : t.launch = s.launch
  bytes : ∀ b, (∀ a ∈ storeAddresses s i, s.target b ≠ s.target a) → t.byteAt b = s.byteAt b

theorem FlagFrame.refl (m : Mnemonic) (p : Flags) : FlagFrame m p p :=
  ⟨fun _ => rfl, fun _ => ⟨rfl, rfl⟩, fun _ => rfl, fun _ => rfl, fun _ => rfl, fun hu hb => ⟨hu, hb⟩⟩

theorem FlagFrame.trans {m : Mnemonic} {p q r : Flags} (h : FlagFrame m p q) (h' : FlagFrame m q r) : FlagFrame m p r where
  c hm := (h'.c hm).trans (h.c hm)
  nz hm := ⟨(h'.nz hm).1.trans (h.nz hm).1, (h'.nz hm).2.trans (h.nz hm).2⟩
  i hm := (h'.i hm).trans (h.i hm)
  d hm := (h'.d hm).trans (h.d hm)
  v hm := (h'.v hm).trans (h.v hm)
  ub hu hb := h'.ub (h.ub hu hb).1 (h.ub hu hb).2

theorem FlagFrame.setNZ {m : Mnemonic} (hm : m ∈ nzWriters) (p : Flags) (d : Byte) : FlagFrame m p (p.setNZ d) :=
  { FlagFrame.refl m p with nz := fun h => absurd hm h }

theorem FlagFrame.setCarry {m : Mnemonic} (hm : m ∈ carryWriters) (p : Flags) (c : Bool) : FlagFrame m p { p with c := c } :=
  { FlagFrame.refl m p with c := fun h => absurd hm h }

theorem FlagFrame.setInterrupt {m : Mnemonic} (hm : m ∈ interruptWriters) (p : Flags) (i : Bool) :
    FlagFrame m p { p with i := i } :=
  { FlagFrame.refl m p with i := fun h => absurd hm h }

/-- R175, R224: PLP and RTI may write every flag, and force U and B. -/
theorem FlagFrame.pulled {m : Mnemonic} (hm : m = .plp ∨ m = .rti) (p : Flags) (d : Byte) : FlagFrame m p (Flags.pulled d) := by
  have hub : (Flags.pulled d).u = true ∧ (Flags.pulled d).b = false := by rw [Flags.pulled_eq]; exact ⟨rfl, rfl⟩
  rcases hm with rfl | rfl
  · exact ⟨fun h => absurd (by decide) h, fun h => absurd (by decide) h, fun h => absurd (by decide) h,
      fun h => absurd (by decide) h, fun h => absurd (by decide) h, fun _ _ => hub⟩
  · exact ⟨fun h => absurd (by decide) h, fun h => absurd (by decide) h, fun h => absurd (by decide) h,
      fun h => absurd (by decide) h, fun h => absurd (by decide) h, fun _ _ => hub⟩

namespace Frame

theorem refl (i : Instr) (s : State) : Frame i s s :=
  ⟨FlagFrame.refl _ _, fun _ _ => rfl, fun _ => rfl, .inr (.inr rfl), rfl, fun _ _ => rfl⟩

variable {i : Instr} {s t : State}

/-! ### Parts that the frame does not look at -/

theorem setPpu (h : Frame i s t) (p : Ppu) : Frame i s { t with ppu := p } := { h with }

theorem setCycles (h : Frame i s t) (n : Nat) : Frame i s { t with cyclesRemaining := n } := { h with }

theorem setFault (h : Frame i s t) (f : Option Fault) : Frame i s { t with fault := f } := { h with }

/-! ### Parts that write a register or a flag -/

theorem setFlags (h : Frame i s t) {q : Flags} (hq : FlagFrame i.mnemonic t.p q) : Frame i s { t with p := q } :=
  { h with flags := h.flags.trans hq }

theorem setNZ (h : Frame i s t) (hm : i.mnemonic ∈ nzWriters) (d : Byte) : Frame i s (t.setNZ d) :=
  h.setFlags (FlagFrame.setNZ hm t.p d)

theorem setReg (h : Frame i s t) {r : Reg} (hm : i.mnemonic ∈ r.writers) (d : Byte) : Frame i s (t.setReg r d) := by
  have hreg : ∀ q : Reg, i.mnemonic ∉ q.writers → (t.setReg r d).reg q = s.reg q := by
    intro q hq
    have hne : q ≠ r := fun e => hq (e ▸ hm)
    rw [State.reg_setReg, if_neg hne]
    exact h.reg q hq
  cases r <;> exact { h with reg := hreg }

theorem setSp (h : Frame i s t) (hm : i.mnemonic ∈ stackWriters) (sp : Byte) : Frame i s { t with sp := sp } :=
  { h with sp := fun hn => absurd hm hn }

theorem setPc (h : Frame i s t) (hm : i.mode = .rel ∨ i.mnemonic ∈ jumpWriters) (pc : Word) : Frame i s { t with pc := pc } :=
  { h with pc := hm.imp_right .inl }

/-! ### Bus accesses -/

theorem memRead (h : Frame i s t) (a : Word) : Frame i s (Machine.memRead a t).left := by
  rcases memRead_cases a t with ⟨d, p, hr⟩ | ⟨f, hr⟩ <;> rw [hr]
  · exact h.setPpu p
  · exact h

theorem pokeByte (h : Frame i s t) {a : Word} (ha : a ∈ storeAddresses s i) (d : Byte) :
    Frame i s (Machine.pokeByte a d t) where
  flags := (pokeByte_p a d t).symm ▸ h.flags
  reg r hr := by
    rw [← h.reg r hr]
    cases r
    · exact pokeByte_a a d t
    · exact pokeByte_x a d t
    · exact pokeByte_y a d t
  sp hm := (pokeByte_sp a d t).trans (h.sp hm)
  pc := (pokeByte_pc a d t).symm ▸ h.pc
  launch := (pokeByte_launch a d t).trans h.launch
  bytes b hb := by
    have htarget (c : Word) : t.target c = s.target c := by rw [State.target, State.target, h.launch]
    rw [State.byteAt_pokeByte_ne (by rw [htarget, htarget]; exact hb a ha)]
    exact h.bytes b hb

theorem memWrite (h : Frame i s t) {a : Word} (ha : a ∈ storeAddresses s i) (d : Byte) :
    Frame i s (Machine.memWrite a d t).left := by
  rcases memWrite_cases a d t with ⟨-, hw⟩ | ⟨p, stall, -, hw⟩ | ⟨f, p, hw⟩ <;> rw [hw]
  · exact h.pokeByte ha d
  · exact (h.setPpu p).setCycles _
  · exact h.setPpu p

theorem pushed_one (h : Frame i s t) (hm : i.mnemonic ∈ stackWriters) (ha : stackAddress t.sp ∈ storeAddresses s i)
    (d : Byte) : Frame i s (t.pushed [d]) :=
  (h.pokeByte ha d).setSp hm _

theorem readSource (h : Frame i s t) (src : Source) : Frame i s (Machine.readSource src t).left := by
  cases src with
  | imm m => exact h
  | mem m =>
    rw [Machine.readSource, resolve_eq, Res.bind_ok]
    exact Res.left_bind (h.memRead _) fun _ _ h => h

theorem retire (h : Frame i s t) (crossed : Bool) (extra : Nat) : Frame i s (Machine.retire i.opcode crossed extra t).left :=
  h.setCycles _

end Frame

/-! ## What each shape may write -/

section
variable {i : Instr} {r : Reg} {src : Source} {m : Addr} {s : State}

theorem loadForm_writes (h : loadForm i = some (r, src)) : i.mnemonic ∈ nzWriters ∧ i.mnemonic ∈ r.writers := by
  unfold loadForm at h
  split at h <;> cases h <;> simp [Instr.mnemonic, nzWriters, Reg.writers]

theorem transferForm_writes {q : Reg} (h : transferForm i = some (r, q)) :
    i.mnemonic ∈ nzWriters ∧ i.mnemonic ∈ r.writers := by
  unfold transferForm at h
  split at h <;> cases h <;> simp [Instr.mnemonic, nzWriters, Reg.writers]

theorem logicForm_writes {op : LogicOp} (h : logicForm i = some (op, src)) :
    i.mnemonic ∈ nzWriters ∧ i.mnemonic ∈ Reg.a.writers := by
  unfold logicForm at h
  split at h <;> cases h <;> simp [Instr.mnemonic, nzWriters, Reg.writers]

theorem bitForm_mnemonic (h : bitForm i = some src) : i.mnemonic = .bit := by
  unfold bitForm at h
  split at h <;> cases h <;> rfl

theorem adcForm_mnemonic (h : adcForm i = some src) : i.mnemonic = .adc := by
  unfold adcForm at h
  split at h <;> cases h <;> rfl

theorem sbcForm_mnemonic (h : sbcForm i = some src) : i.mnemonic = .sbc := by
  unfold sbcForm at h
  split at h <;> cases h <;> rfl

theorem compareForm_writes (h : compareForm i = some (r, src)) : i.mnemonic ∈ nzWriters ∧ i.mnemonic ∈ carryWriters := by
  unfold compareForm at h
  split at h <;> cases h <;> simp [Instr.mnemonic, nzWriters, carryWriters]

theorem incForm_writes (h : incForm i = some m) : i.mnemonic ∈ nzWriters ∧ (effective s m).ea ∈ storeAddresses s i := by
  unfold incForm at h
  split at h <;> cases h <;> exact ⟨by simp [Instr.mnemonic, nzWriters], List.mem_cons_self⟩

theorem decForm_writes (h : decForm i = some m) : i.mnemonic ∈ nzWriters ∧ (effective s m).ea ∈ storeAddresses s i := by
  unfold decForm at h
  split at h <;> cases h <;> exact ⟨by simp [Instr.mnemonic, nzWriters], List.mem_cons_self⟩

theorem stepRegForm_writes {up : Bool} (h : stepRegForm i = some (r, up)) :
    i.mnemonic ∈ nzWriters ∧ i.mnemonic ∈ r.writers := by
  unfold stepRegForm at h
  split at h <;> cases h <;> simp [Instr.mnemonic, nzWriters, Reg.writers]

theorem shiftAccForm_writes {op : ShiftOp} (h : shiftAccForm i = some op) :
    i.mnemonic ∈ nzWriters ∧ i.mnemonic ∈ carryWriters ∧ i.mnemonic ∈ Reg.a.writers := by
  unfold shiftAccForm at h
  split at h <;> cases h <;> simp [Instr.mnemonic, nzWriters, carryWriters, Reg.writers]

theorem shiftMemForm_writes {op : ShiftOp} (h : shiftMemForm i = some (op, m)) :
    i.mnemonic ∈ nzWriters ∧ i.mnemonic ∈ carryWriters ∧ (effective s m).ea ∈ storeAddresses s i := by
  unfold shiftMemForm at h
  split at h <;> cases h <;>
    exact ⟨by simp [Instr.mnemonic, nzWriters], by simp [Instr.mnemonic, carryWriters], List.mem_cons_self⟩

theorem storeForm_writes (h : storeForm i = some (r, m)) : (effective s m).ea ∈ storeAddresses s i := by
  simp [storeAddresses, h]

/-- R240 to R246: a flag instruction writes the one flag it names. -/
theorem flagForm_frame {p q : Flags} (h : flagForm p i = some q) : FlagFrame i.mnemonic p q := by
  unfold flagForm at h
  split at h <;> cases h
  case h_1 => exact { FlagFrame.refl .clc p with c := fun h => absurd (by decide) h }
  case h_2 => exact { FlagFrame.refl .sec p with c := fun h => absurd (by decide) h }
  case h_3 => exact { FlagFrame.refl .cli p with i := fun h => absurd (by decide) h }
  case h_4 => exact { FlagFrame.refl .sei p with i := fun h => absurd (by decide) h }
  case h_5 => exact { FlagFrame.refl .clv p with v := fun h => absurd (by decide) h }
  case h_6 => exact { FlagFrame.refl .cld p with d := fun h => absurd (by decide) h }
  case h_7 => exact { FlagFrame.refl .sed p with d := fun h => absurd (by decide) h }

/-- R187: a compare writes C, Z and N. -/
theorem FlagFrame.afterCompare {mn : Mnemonic} (hc : mn ∈ carryWriters) (hnz : mn ∈ nzWriters) (p : Flags) (a d : Byte) :
    FlagFrame mn p (p.afterCompare a d) :=
  { FlagFrame.refl mn p with c := fun h => absurd hc h, nz := fun h => absurd hnz h }

/-- R183: BIT writes V, Z and N. -/
theorem FlagFrame.afterBit {mn : Mnemonic} (h : mn = .bit) (p : Flags) (a d : Byte) : FlagFrame mn p (p.afterBit a d) := by
  subst h
  exact { FlagFrame.refl .bit p with nz := fun h => absurd (by decide) h, v := fun h => absurd (by decide) h }

/-- R184, R185: ADC and SBC write C, V, Z and N. -/
theorem FlagFrame.afterAdc {mn : Mnemonic} (h : mn = .adc ∨ mn = .sbc) (p : Flags) (a d : Byte) : FlagFrame mn p (p.afterAdc a d) := by
  rcases h with rfl | rfl <;> exact { FlagFrame.refl _ p with
    c := fun h => absurd (by decide) h
    nz := fun h => absurd (by decide) h
    v := fun h => absurd (by decide) h }

end

/-! ## The frame of each body -/

theorem Frame.ofReadSource {i : Instr} {s : State} (src : Source) {k : Fetched → State → Res Unit}
    (hk : ∀ v t, Frame i s t → Frame i s (k v t).left) : Frame i s ((Machine.readSource src s).bind k).left :=
  Res.left_bind (Frame.readSource (Frame.refl i s) src) hk

/-- Body by body: what an instruction leaves is in its frame, whether or not it raises. -/
theorem Runs.frame {i : Instr} {b : State → Res Unit} (hb : Runs i b) (s : State) : Frame i s (b s).left := by
  have hrefl := Frame.refl i s
  cases hb with
  | load r src h =>
    obtain ⟨hnz, hr⟩ := loadForm_writes h
    exact Frame.ofReadSource src fun _ _ h => ((h.setReg hr _).setNZ hnz _).retire _ _
  | store r m h =>
    rw [Machine.store, resolve_eq, Res.bind_ok]
    exact Res.left_bind (hrefl.memWrite (storeForm_writes h) _) fun _ _ h => h.retire _ _
  | transfer r q h =>
    obtain ⟨hnz, hr⟩ := transferForm_writes h
    exact ((hrefl.setReg hr _).setNZ hnz _).retire _ _
  | tsx h => subst h; exact ((hrefl.setReg (r := .x) (by decide) _).setNZ (by decide) _).retire _ _
  | txs h => subst h; exact (hrefl.setSp (by decide) _).retire _ _
  | pha h =>
    subst h
    simp only [push_eq, Res.bind_ok]
    exact (hrefl.pushed_one (by decide) List.mem_cons_self _).retire _ _
  | php h =>
    subst h
    simp only [push_eq, Res.bind_ok]
    exact (hrefl.pushed_one (by decide) List.mem_cons_self _).retire _ _
  | pla h =>
    subst h
    simp only [pull_eq, Res.bind_ok]
    exact (((hrefl.setSp (by decide) _).setReg (r := .a) (by decide) _).setNZ (by decide) _).retire _ _
  | plp h =>
    subst h
    simp only [pull_eq, Res.bind_ok]
    exact ((hrefl.setSp (by decide) (s.sp + 1)).setFlags (FlagFrame.pulled (.inl rfl) _ (s.stacked 1))).retire _ _
  | logic op src h =>
    obtain ⟨hnz, hr⟩ := logicForm_writes h
    exact Frame.ofReadSource src fun _ _ h => ((h.setReg hr _).setNZ hnz _).retire _ _
  | bit src h =>
    have hm := bitForm_mnemonic h
    exact Frame.ofReadSource src fun _ _ h => (h.setFlags (FlagFrame.afterBit hm _ _ _)).retire _ _
  | adc src h =>
    have hm := adcForm_mnemonic h
    exact Frame.ofReadSource src fun _ _ h =>
      ((h.setReg (r := .a) (hm ▸ by decide) _).setFlags (FlagFrame.afterAdc (.inl hm) _ _ _)).retire _ _
  | sbc src h =>
    have hm := sbcForm_mnemonic h
    exact Frame.ofReadSource src fun _ _ h =>
      ((h.setReg (r := .a) (hm ▸ by decide) _).setFlags (FlagFrame.afterAdc (.inr hm) _ _ _)).retire _ _
  | compare r src h =>
    obtain ⟨hnz, hc⟩ := compareForm_writes h
    exact Frame.ofReadSource src fun _ _ h => (h.setFlags (FlagFrame.afterCompare hc hnz _ _ _)).retire _ _
  | inc m h =>
    obtain ⟨hnz, ha⟩ := incForm_writes h
    rw [Machine.modify, resolve_eq, Res.bind_ok]
    exact Res.left_bind (hrefl.memRead _) fun _ _ h => Res.left_bind (h.memWrite ha _) fun _ _ h =>
      (h.setNZ hnz _).retire _ _
  | dec m h =>
    obtain ⟨hnz, ha⟩ := decForm_writes h
    rw [Machine.modify, resolve_eq, Res.bind_ok]
    exact Res.left_bind (hrefl.memRead _) fun _ _ h => Res.left_bind (h.memWrite ha _) fun _ _ h =>
      (h.setNZ hnz _).retire _ _
  | stepReg r up h =>
    obtain ⟨hnz, hr⟩ := stepRegForm_writes h
    exact ((hrefl.setReg hr _).setNZ hnz _).retire _ _
  | shiftAcc op h =>
    obtain ⟨hnz, hc, hr⟩ := shiftAccForm_writes h
    exact (((hrefl.setFlags (FlagFrame.setCarry hc _ _)).setReg hr _).setNZ hnz _).retire _ _
  | shiftMem op m h =>
    obtain ⟨hnz, hc, ha⟩ := shiftMemForm_writes h
    rw [Machine.shift, resolve_eq, Res.bind_ok]
    exact Res.left_bind (hrefl.memRead _) fun _ _ h =>
      Res.left_bind ((h.setFlags (FlagFrame.setCarry hc _ _)).memWrite ha _) fun _ _ h => (h.setNZ hnz _).retire _ _
  | jmpAbs a h => subst h; exact (hrefl.setPc (.inr (by simp [Instr.mnemonic, jumpWriters])) _).retire _ _
  | jmpInd a h =>
    subst h
    exact Res.left_bind (Res.left_bind (hrefl.memRead _) fun _ _ h => Res.left_bind (h.memRead _) fun _ _ h => h)
      fun _ _ h => (h.setPc (.inr (by simp [Instr.mnemonic, jumpWriters])) _).retire _ _
  | jsr a h =>
    subst h
    have hsp : Instr.mnemonic (.jsr a) ∈ stackWriters := by simp [Instr.mnemonic, stackWriters]
    simp only [push16_eq, Res.bind_ok]
    have hfirst := hrefl.pushed_one hsp (List.mem_cons_self ..) (hiByte (s.pc - 1))
    have hsecond := hfirst.pushed_one hsp (List.mem_cons_of_mem _ List.mem_cons_self) (loByte (s.pc - 1))
    exact (hsecond.setPc (.inr (by simp [Instr.mnemonic, jumpWriters])) a).retire _ _
  | rts h =>
    subst h
    simp only [pull16_eq, Res.bind_ok]
    exact ((hrefl.setSp (by decide) (s.sp + 2)).setPc (.inr (by decide)) _).retire _ _
  | brk h =>
    subst h
    simp only [enterTrap_brk, Res.bind_ok]
    have hsp : Instr.mnemonic .brk ∈ stackWriters := by decide
    have hsub : s.sp - 1 - 1 = s.sp - 2 := BitVec.sub_sub s.sp 1 1
    have hfirst := hrefl.pushed_one hsp List.mem_cons_self (hiByte (s.pc + 1))
    have hsecond := hfirst.pushed_one hsp (List.mem_cons_of_mem _ List.mem_cons_self) (loByte (s.pc + 1))
    have haddress : stackAddress (s.sp - 1 - 1) ∈ storeAddresses s .brk := by
      rw [hsub]
      exact List.mem_cons_of_mem _ (List.mem_cons_of_mem _ List.mem_cons_self)
    have hthird : Frame .brk s (s.pushed [hiByte (s.pc + 1), loByte (s.pc + 1), s.p.toByte ||| 0x30]) :=
      hsecond.pushed_one hsp haddress (s.p.toByte ||| 0x30)
    have hflags : FlagFrame .brk (s.pushed [hiByte (s.pc + 1), loByte (s.pc + 1), s.p.toByte ||| 0x30]).p
        { s.p with i := true } := by
      rw [State.p_pushed]
      exact FlagFrame.setInterrupt (by decide) s.p true
    exact ((hthird.setFlags hflags).setPc (.inr (by decide)) _).retire _ _
  | rti h =>
    subst h
    simp only [returnFromTrap_eq, Res.bind_ok]
    exact (((hrefl.setSp (by decide) (s.sp + 3)).setFlags (FlagFrame.pulled (.inr rfl) _ (s.stacked 1))).setPc
      (.inr (by decide)) _).retire _ _
  | branch d taken h =>
    show Frame i s (Machine.branch i.opcode (taken s.p) d s).left
    unfold Machine.branch
    split
    · exact (hrefl.setPc (.inl (mode_of_branchForm (h s.p))) _).retire _ _
    · exact hrefl.retire _ _
  | flag f h => exact (hrefl.setFlags (flagForm_frame (h s.p))).retire _ _
  | nop _ => exact hrefl.retire _ _

/-- What an instruction leaves is in its frame, the recorded fault included. -/
theorem exec_frame {i : Instr} {s t : State} (ht : exec i s = .next t) : Frame i s t := by
  obtain ⟨b, hb, hexec⟩ := runs_exec i
  rw [hexec] at ht
  rcases Res.outcome_cases ht with rfl | ⟨f, -, -, rfl⟩
  · exact hb.frame s
  · exact (hb.frame s).setFault _

end Sys2Proof.Machine

namespace Sys2Proof

open Sys2Proof.Machine

/-- Settles O50: the bytes of the frame of every instruction, `exec_frame`. -/
theorem memoryFrame : Obligations.MemoryFrame := fun _ _ _ ht => (exec_frame ht).bytes

/-- Settles O51: the flags and registers of the frame of every instruction, `exec_frame`. -/
theorem flagAndRegisterFrame : Obligations.FlagAndRegisterFrame := by
  intro i s t ht
  obtain ⟨hf, hreg, hsp, hpc, -, -⟩ := exec_frame ht
  exact ⟨hf.c, hf.nz, hf.i, hf.d, hf.v, hf.ub, hreg .a, hreg .x, hreg .y, hsp, hpc⟩

end Sys2Proof
end

section
/-!
PROOFS. The decimal flag (R186): no access to the bus, no shared body and no retirement looks at D, so a run from the state with
another D ends in the state with that D.
-/
namespace Sys2Proof.Machine

/-! ## States that differ in D alone -/

/-- The machine with another decimal flag. -/
def State.withDecimal (e : Bool) (s : State) : State := { s with p := { s.p with d := e } }

/-- What a micro-operation leaves, with another decimal flag. -/
def Res.withDecimal {α : Type} (e : Bool) : Res α → Res α
  | .ok v s => .ok v (s.withDecimal e)
  | .raised f s => .raised f (s.withDecimal e)

theorem Res.outcome_withDecimal {e : Bool} {r : Res Unit} {t : State} (h : r.outcome = .next t) :
    (r.withDecimal e).outcome = .next (t.withDecimal e) := by
  cases r <;> cases h <;> rfl

/-- Micro-operations in a row that do not look at D. -/
theorem Res.bind_withDecimal {α β : Type} {e : Bool} {r q : Res α} {k l : α → State → Res β} (h : r = q.withDecimal e)
    (hk : ∀ v s, k v (s.withDecimal e) = (l v s).withDecimal e) : r.bind k = (q.bind l).withDecimal e := by
  subst h
  cases q with
  | ok v s => exact hk v s
  | raised f s => rfl

/-! ## The bus and the operands -/

theorem memRead_withDecimal (e : Bool) (a : Word) (s : State) :
    memRead a (s.withDecimal e) = (memRead a s).withDecimal e := by
  have htarget : (s.withDecimal e).target a = s.target a := rfl
  unfold memRead
  rw [htarget]
  cases s.target a with
  | ram i => rfl
  | ext i => rfl
  | oamDma => rfl
  | ppu index =>
    show (match ppuRegRead s.launch index s.ppu with | some (d, p) => _ | none => _) = _
    cases h : ppuRegRead s.launch index s.ppu <;> simp only [h] <;> rfl

theorem oamCopy_withDecimal (e : Bool) (page : Byte) (count : Nat) : ∀ (first : Nat) (s : State),
    oamCopy page first count (s.withDecimal e) = (oamCopy page first count s).withDecimal e := by
  induction count with
  | zero => exact fun _ _ => rfl
  | succ n ih =>
    exact fun first s => Res.bind_withDecimal (memRead_withDecimal e _ s) fun d t => ih (first + 1)
      { t with ppu := { t.ppu with oam := Mem.write t.ppu.oam (t.ppu.oamAddr + BitVec.ofNat 8 first).toNat d } }

theorem memWrite_withDecimal (e : Bool) (a : Word) (d : Byte) (s : State) :
    memWrite a d (s.withDecimal e) = (memWrite a d s).withDecimal e := by
  have htarget : (s.withDecimal e).target a = s.target a := rfl
  unfold memWrite
  rw [htarget]
  cases s.target a with
  | ram i => rfl
  | ext i => rfl
  | oamDma => exact Res.bind_withDecimal (oamCopy_withDecimal e d 256 0 s) fun _ _ => rfl
  | ppu index =>
    show (match ppuRegWrite s.launch index d s.ppu with | some p => _ | none => _) = _
    cases h : ppuRegWrite s.launch index d s.ppu <;> simp only [h] <;> rfl

theorem push_withDecimal (e : Bool) (d : Byte) (s : State) : push d (s.withDecimal e) = (push d s).withDecimal e :=
  Res.bind_withDecimal (memWrite_withDecimal e _ d s) fun _ _ => rfl

theorem push16_withDecimal (e : Bool) (w : Word) (s : State) : push16 w (s.withDecimal e) = (push16 w s).withDecimal e :=
  Res.bind_withDecimal (push_withDecimal e _ s) fun _ t => push_withDecimal e _ t

theorem pull_withDecimal (e : Bool) (s : State) : pull (s.withDecimal e) = (pull s).withDecimal e :=
  memRead_withDecimal e _ { s with sp := s.sp + 1 }

theorem pull16_withDecimal (e : Bool) (s : State) : pull16 (s.withDecimal e) = (pull16 s).withDecimal e :=
  Res.bind_withDecimal (pull_withDecimal e s) fun _ t => Res.bind_withDecimal (pull_withDecimal e t) fun _ _ => rfl

theorem resolve_withDecimal (e : Bool) (m : Addr) (s : State) : resolve m (s.withDecimal e) = (resolve m s).withDecimal e := by
  rw [resolve_eq, resolve_eq]
  cases m <;> rfl

theorem readSource_withDecimal (e : Bool) (src : Source) (s : State) :
    readSource src (s.withDecimal e) = (readSource src s).withDecimal e := by
  cases src with
  | imm m => rfl
  | mem m =>
    exact Res.bind_withDecimal (resolve_withDecimal e m s) fun _ t =>
      Res.bind_withDecimal (memRead_withDecimal e _ t) fun _ _ => rfl

theorem resolveIndirect_withDecimal (e : Bool) (ptr : Word) (s : State) :
    resolveIndirect ptr (s.withDecimal e) = (resolveIndirect ptr s).withDecimal e :=
  Res.bind_withDecimal (memRead_withDecimal e _ s) fun _ t => Res.bind_withDecimal (memRead_withDecimal e _ t) fun _ _ => rfl

theorem State.reg_withDecimal (e : Bool) (s : State) (r : Reg) : (s.withDecimal e).reg r = s.reg r := by cases r <;> rfl

/-- Writing a register and N and Z, at the end of an instruction. -/
theorem retire_setReg_withDecimal (e : Bool) (op : Byte) (crossed : Bool) (r : Reg) (d : Byte) (s : State) :
    retire op crossed 0 (((s.withDecimal e).setReg r d).setNZ d) = (retire op crossed 0 ((s.setReg r d).setNZ d)).withDecimal e := by
  cases r <;> rfl

theorem branch_withDecimal (e : Bool) (op : Byte) (taken : Bool) (d : Byte) (s : State) :
    branch op taken d (s.withDecimal e) = (branch op taken d s).withDecimal e := by
  cases taken <;> rfl

/-! ## The bodies -/

/-- Neither the condition of a branch nor the flag that an instruction other than CLD and SED sets has to do with D. -/
theorem branchForm_withDecimal (p : Flags) (i : Instr) (e : Bool) : branchForm { p with d := e } i = branchForm p i := by
  cases i <;> rfl

theorem flagForm_withDecimal {i : Instr} (hcld : i ≠ .cld) (hsed : i ≠ .sed) (p : Flags) (e : Bool) :
    flagForm { p with d := e } i = (flagForm p i).map fun q => { q with d := e } := by
  cases i
  case cld => exact absurd rfl hcld
  case sed => exact absurd rfl hsed
  all_goals rfl

/-- R186: the instructions that push, load, set or clear D. -/
def decimalInstructions : List Instr := [.php, .plp, .brk, .rti, .cld, .sed]

/-- Body by body: no other instruction looks at D. -/
theorem Runs.withDecimal {i : Instr} {b : State → Res Unit} (hb : Runs i b) (hi : i ∉ decimalInstructions) (e : Bool)
    (s : State) : b (s.withDecimal e) = (b s).withDecimal e := by
  cases hb with
  | load r src _ =>
    exact Res.bind_withDecimal (readSource_withDecimal e src s) fun _ _ => retire_setReg_withDecimal e _ _ r _ _
  | store r m _ =>
    exact Res.bind_withDecimal (resolve_withDecimal e m s) fun _ t => Res.bind_withDecimal
      ((congrArg (memWrite _ · _) (State.reg_withDecimal e t r)).trans (memWrite_withDecimal e _ _ t)) fun _ _ => rfl
  | transfer r q _ =>
    show Machine.transfer _ _ ((s.withDecimal e).reg q) _ = _
    rw [State.reg_withDecimal]
    exact retire_setReg_withDecimal e _ _ r _ s
  | tsx _ => rfl
  | txs _ => rfl
  | pha _ => exact Res.bind_withDecimal (push_withDecimal e _ s) fun _ _ => rfl
  | php h => subst h; exact absurd (by decide) hi
  | pla _ => exact Res.bind_withDecimal (pull_withDecimal e s) fun _ _ => rfl
  | plp h => subst h; exact absurd (by decide) hi
  | logic op src _ => exact Res.bind_withDecimal (readSource_withDecimal e src s) fun _ _ => rfl
  | bit src _ => exact Res.bind_withDecimal (readSource_withDecimal e src s) fun _ _ => rfl
  | adc src _ => exact Res.bind_withDecimal (readSource_withDecimal e src s) fun _ _ => rfl
  | sbc src _ => exact Res.bind_withDecimal (readSource_withDecimal e src s) fun _ _ => rfl
  | compare r src _ =>
    exact Res.bind_withDecimal (readSource_withDecimal e src s) fun _ t => by rw [State.reg_withDecimal]; rfl
  | inc m _ =>
    exact Res.bind_withDecimal (resolve_withDecimal e m s) fun _ t => Res.bind_withDecimal (memRead_withDecimal e _ t)
      fun _ u => Res.bind_withDecimal (memWrite_withDecimal e _ _ u) fun _ _ => rfl
  | dec m _ =>
    exact Res.bind_withDecimal (resolve_withDecimal e m s) fun _ t => Res.bind_withDecimal (memRead_withDecimal e _ t)
      fun _ u => Res.bind_withDecimal (memWrite_withDecimal e _ _ u) fun _ _ => rfl
  | stepReg r up _ =>
    show Machine.modifyReg _ _ _ _ = _
    rw [Machine.modifyReg, State.reg_withDecimal]
    exact retire_setReg_withDecimal e _ _ r _ s
  | shiftAcc op _ => rfl
  | shiftMem op m _ =>
    exact Res.bind_withDecimal (resolve_withDecimal e m s) fun _ t => Res.bind_withDecimal (memRead_withDecimal e _ t)
      fun d u => Res.bind_withDecimal (memWrite_withDecimal e _ _ (u.setCarry (op.carry d))) fun _ _ => rfl
  | jmpAbs a _ => rfl
  | jmpInd a _ => exact Res.bind_withDecimal (resolveIndirect_withDecimal e a s) fun _ _ => rfl
  | jsr a _ => exact Res.bind_withDecimal (push16_withDecimal e _ s) fun _ _ => rfl
  | rts _ => exact Res.bind_withDecimal (pull16_withDecimal e s) fun _ _ => rfl
  | brk h => subst h; exact absurd (by decide) hi
  | rti h => subst h; exact absurd (by decide) hi
  | branch d taken h =>
    have htaken : taken { s.p with d := e } = taken s.p := by
      have hform := branchForm_withDecimal s.p i e
      rw [h, h] at hform
      simpa using hform
    show Machine.branch _ (taken { s.p with d := e }) _ _ = _
    rw [htaken]
    exact branch_withDecimal e _ _ _ s
  | flag f h =>
    have hflags : f { s.p with d := e } = { f s.p with d := e } := by
      have hform := flagForm_withDecimal (i := i) (by rintro rfl; exact hi (by decide)) (by rintro rfl; exact hi (by decide)) s.p e
      rw [h, h] at hform
      simpa using hform
    show Machine.retire _ _ _ { s with p := f { s.p with d := e } } = _
    rw [hflags]
    rfl
  | nop _ => rfl

end Sys2Proof.Machine

namespace Sys2Proof

open Sys2Proof.Machine

/-- Settles O34: the body of the instruction does not look at D, `Runs.withDecimal`. -/
theorem decimalFlagIgnored : Obligations.DecimalFlagIgnored := by
  intro i s t e hi ht
  obtain ⟨b, hb, hexec⟩ := runs_exec i
  rw [hexec] at ht ⊢
  exact (congrArg Res.outcome (hb.withDecimal hi e s)).trans (Res.outcome_withDecimal ht)

end Sys2Proof
end

section
/-!
PROOFS. The position and the quiet cycles (R280, R281, R283, R287, R301): the position counts modulo 341 and 262; off the render
lines, and with rendering disabled, a cycle is its events, the pixel of a visible position and the advance.
-/
namespace Sys2Proof.Machine

/-! ## The position -/

theorem Ppu.next_scanline (l : Launch) (n : Nat) (p : Ppu) : (p.next l n).scanline = p.advanced.scanline := by
  obtain ⟨_, _, _, _, _, _, _, _, _, _, _, _, _, _, h⟩ := Ppu.next_frame l n p
  rw [h]

theorem Ppu.next_cycle (l : Launch) (n : Nat) (p : Ppu) : (p.next l n).cycle = p.advanced.cycle := by
  obtain ⟨_, _, _, _, _, _, _, _, _, _, _, _, _, _, h⟩ := Ppu.next_frame l n p
  rw [h]

theorem ppuCycle_frameComplete (s : State) : (ppuCycle s).frameComplete =
    (s.frameComplete || decide (s.ppu.scanline = 261 ∧ s.ppu.cycle = 340)) := by rw [ppuCycle_eq]

/-- R281, by the count of calls: after k calls from (0, 0) the position is k written in the bases 341 and 262. -/
theorem position_iterate {s : State} (hline : s.ppu.scanline = 0) (hcycle : s.ppu.cycle = 0) (k : Nat) :
    (ppuCycle^[k] s).ppu.scanline = k / 341 % 262 ∧ (ppuCycle^[k] s).ppu.cycle = k % 341 := by
  induction k with
  | zero => exact ⟨hline, hcycle⟩
  | succ k ih =>
    obtain ⟨ihline, ihcycle⟩ := ih
    rw [Function.iterate_succ_apply', ppuCycle_ppu, Ppu.next_scanline, Ppu.next_cycle]
    simp only [Ppu.advanced, ihline, ihcycle]
    split_ifs <;> omega

/-- R283, by the count of calls: the frame signal is set by the call at (261, 340), the last of the 89342, and never cleared. -/
theorem frameComplete_iterate {s : State} (hline : s.ppu.scanline = 0) (hcycle : s.ppu.cycle = 0)
    (hframe : s.frameComplete = false) (k : Nat) : (ppuCycle^[k] s).frameComplete = decide (89342 ≤ k) := by
  induction k with
  | zero => exact hframe
  | succ k ih =>
    obtain ⟨hk, hk'⟩ := position_iterate hline hcycle k
    rw [Function.iterate_succ_apply', ppuCycle_frameComplete, ih, hk, hk', ← Bool.decide_or, decide_eq_decide]
    omega

/-! ## Quiet cycles -/

/-- R280, R282: off the render lines a cycle is its events and the advance. -/
theorem Ppu.next_off_renderLine (l : Launch) (n : Nat) {p : Ppu} (h : renderLine p.scanline = false) :
    p.next l n = p.afterEvents.advanced := by
  have hidle : p.afterEvents.rendered l n = p.afterEvents := if_neg (ne_true_of_eq_false h)
  rw [Ppu.next, hidle]

/-- R287, R301: with rendering disabled a whole cycle stores the backdrop at a visible position and no other pixel. -/
theorem Ppu.next_fb_of_renderingDisabled (l : Launch) (n : Nat) {p : Ppu} (he : p.renderingEnabled = false) :
    (p.next l n).fb = (whenever (visiblePixel p.scanline p.cycle) (fun q => q.emit (backdrop l.mirroring p)) p).fb := by
  have hrendered : p.afterEvents.rendered l n =
      if renderLine p.scanline then
        whenever (visiblePixel p.scanline p.cycle) (Ppu.emitBackdrop l.mirroring) p.afterEvents else p.afterEvents := by
    rw [Ppu.rendered, if_neg (show ¬ p.afterEvents.renderingEnabled = true from ne_true_of_eq_false he)]
    rfl
  rw [Ppu.next, hrendered]
  unfold whenever
  by_cases hv : visiblePixel p.scanline p.cycle = true
  · rw [if_pos (renderLine_of_visiblePixel hv), if_pos hv, if_pos hv]
    rfl
  · rw [if_neg hv, if_neg hv, ite_self]
    rfl

/-- R300, R301: the backdrop colour is entry 0 of palette RAM. -/
theorem backdrop_eq (m : Mirroring) (p : Ppu) : backdrop m p = (Mem.read p.pal 0).extractLsb' 0 6 := by
  rw [backdrop, BitVec.setWidth_eq_extractLsb' (by decide), vramRead_pal m p (k := 0) rfl (by decide)]

/-- A status bit cleared at one position. -/
theorem and_not_decide (b : Bool) (P : Prop) [Decidable P] : (b && !decide P) = if P then false else b := by
  by_cases h : P <;> simp [h]

end Sys2Proof.Machine

namespace Sys2Proof

open Sys2Proof.Machine

/-- Settles O53, by the count of calls: `position_iterate` and `frameComplete_iterate`. -/
theorem positionOfPpuCycle : Obligations.PositionOfPpuCycle := by
  intro k s hline hcycle hframe
  obtain ⟨hk, hk'⟩ := position_iterate hline hcycle k
  exact ⟨hk, hk', frameComplete_iterate hline hcycle hframe k⟩

/-- Settles O55: a quiet cycle leaves the pipeline (`Ppu.next_off_renderLine`, `Ppu.next_disabled`), and with rendering disabled
the pixel it stores is the backdrop (`Ppu.next_fb_of_renderingDisabled`), read back where it lies (`Ppu.read_whenever_emit`). -/
theorem quietPpuCycle : Obligations.QuietPpuCycle := by
  rintro s line column rfl rfl
  refine ⟨fun hfirst hlast => ?off, fun hbg hsprite => ?disabled⟩
  case off =>
    have hline : renderLine s.ppu.scanline = false := by simp [renderLine]; omega
    have hne : s.ppu.scanline ≠ 261 := by omega
    rw [ppuCycle_ppu, Ppu.next_off_renderLine _ _ hline]
    simp [Ppu.afterEvents, Ppu.advanced, hne]
  case disabled =>
    have he : s.ppu.renderingEnabled = false := by rw [Ppu.renderingEnabled, Ppu.bgEnable, Ppu.spriteEnable, hbg, hsprite]; rfl
    refine ⟨?changed, fun row x hrow hx => ?pixel⟩
    case changed =>
      obtain ⟨fb, hnext⟩ := Ppu.next_disabled s.launch s.spriteDraws (p := s.ppu) (by rw [he, Bool.and_false])
      refine ⟨fb, ?_⟩
      rw [ppuCycle_ppu, hnext]
      simp only [Ppu.afterEvents, Ppu.advanced, and_not_decide]
    case pixel =>
      rw [State.framePixel, ppuCycle_ppu, Ppu.next_fb_of_renderingDisabled _ _ he, backdrop_eq]
      exact Ppu.read_whenever_emit _ _ hrow hx

end Sys2Proof
end

section
/-!
PROOFS. The moves of `v` (R42, R287, R288, R294 to R297): `v` is cut into its five fields, on which a mask acts field by field;
the next tile and the next row are replacements of fields, and in numbers sums. When a cycle moves `v` is read off the pipeline.
-/
namespace Sys2Proof.Machine

/-! ## The five fields of `v` -/

/-- The scroll position of the given fields (R42): fine Y, the two nametable bits, coarse Y and coarse X. -/
def scrollOf (fine : BitVec 3) (vertical horizontal : BitVec 1) (y x : BitVec 5) : BitVec 15 :=
  fine ++ vertical ++ horizontal ++ y ++ x

/-- The vertical nametable bit, `v[11]`. -/
def verticalBit (v : BitVec 15) : BitVec 1 := v.extractLsb' 11 1

/-- The horizontal nametable bit, `v[10]`. -/
def horizontalBit (v : BitVec 15) : BitVec 1 := v.extractLsb' 10 1

theorem scrollOf_and (f f' : BitVec 3) (n n' m m' : BitVec 1) (y y' x x' : BitVec 5) :
    scrollOf f n m y x &&& scrollOf f' n' m' y' x' = scrollOf (f &&& f') (n &&& n') (m &&& m') (y &&& y') (x &&& x') := by
  show (f ++ n ++ m ++ y ++ x &&& f' ++ n' ++ m' ++ y' ++ x' : BitVec (3 + 1 + 1 + 5 + 5)) = _
  simp only [BitVec.and_append]
  rfl

theorem scrollOf_or (f f' : BitVec 3) (n n' m m' : BitVec 1) (y y' x x' : BitVec 5) :
    scrollOf f n m y x ||| scrollOf f' n' m' y' x' = scrollOf (f ||| f') (n ||| n') (m ||| m') (y ||| y') (x ||| x') := by
  show (f ++ n ++ m ++ y ++ x ||| f' ++ n' ++ m' ++ y' ++ x' : BitVec (3 + 1 + 1 + 5 + 5)) = _
  simp only [BitVec.or_append]
  rfl

theorem scrollOf_xor (f f' : BitVec 3) (n n' m m' : BitVec 1) (y y' x x' : BitVec 5) :
    scrollOf f n m y x ^^^ scrollOf f' n' m' y' x' = scrollOf (f ^^^ f') (n ^^^ n') (m ^^^ m') (y ^^^ y') (x ^^^ x') := by
  show (f ++ n ++ m ++ y ++ x ^^^ f' ++ n' ++ m' ++ y' ++ x' : BitVec (3 + 1 + 1 + 5 + 5)) = _
  simp only [BitVec.xor_append]
  rfl

theorem toNat_append_eq {h k : Nat} (x : BitVec h) (y : BitVec k) : (x ++ y).toNat = x.toNat * 2 ^ k + y.toNat := by
  rw [BitVec.toNat_append, ← Nat.shiftLeft_add_eq_or_of_lt y.isLt, Nat.shiftLeft_eq]

theorem toNat_scrollOf (f : BitVec 3) (n m : BitVec 1) (y x : BitVec 5) : (scrollOf f n m y x).toNat =
    f.toNat * 4096 + n.toNat * 2048 + m.toNat * 1024 + y.toNat * 32 + x.toNat := by
  simp only [scrollOf, toNat_append_eq]
  omega

theorem toNat_fineY (v : BitVec 15) : (fineY v).toNat = v.toNat / 4096 := by
  have hv := v.isLt
  simp only [fineY, BitVec.extractLsb'_toNat, Nat.shiftRight_eq_div_pow]
  omega

theorem toNat_verticalBit (v : BitVec 15) : (verticalBit v).toNat = v.toNat / 2048 % 2 := by
  simp only [verticalBit, BitVec.extractLsb'_toNat, Nat.shiftRight_eq_div_pow, Nat.reducePow]

theorem toNat_horizontalBit (v : BitVec 15) : (horizontalBit v).toNat = v.toNat / 1024 % 2 := by
  simp only [horizontalBit, BitVec.extractLsb'_toNat, Nat.shiftRight_eq_div_pow, Nat.reducePow]

theorem toNat_coarseY (v : BitVec 15) : (coarseY v).toNat = v.toNat / 32 % 32 := by
  simp only [coarseY, BitVec.extractLsb'_toNat, Nat.shiftRight_eq_div_pow, Nat.reducePow]

theorem toNat_coarseX (v : BitVec 15) : (coarseX v).toNat = v.toNat % 32 := by
  simp only [coarseX, BitVec.extractLsb'_toNat, Nat.shiftRight_zero, Nat.reducePow]

theorem scrollOf_fields (v : BitVec 15) :
    scrollOf (fineY v) (verticalBit v) (horizontalBit v) (coarseY v) (coarseX v) = v := by
  apply BitVec.eq_of_toNat_eq
  rw [toNat_scrollOf, toNat_fineY, toNat_verticalBit, toNat_horizontalBit, toNat_coarseY, toNat_coarseX]
  omega

/-! ## The copies from `t` -/

/-- R296: coarse X and the horizontal nametable bit come from `t`. -/
theorem Ppu.copyHorizontal_v (p : Ppu) : p.copyHorizontal.v =
    scrollOf (fineY p.v) (verticalBit p.v) (horizontalBit p.t) (coarseY p.v) (coarseX p.t) := by
  show p.v &&& scrollOf (.allOnes 3) (.allOnes 1) 0 (.allOnes 5) 0 ||| p.t &&& scrollOf 0 0 (.allOnes 1) 0 (.allOnes 5) = _
  conv_lhs => rw [← scrollOf_fields p.v, ← scrollOf_fields p.t]
  rw [scrollOf_and, scrollOf_and, scrollOf_or]
  simp only [BitVec.ofNat_eq_ofNat, BitVec.and_allOnes, BitVec.and_zero, BitVec.or_zero, BitVec.zero_or]

/-- R297: fine Y, the vertical nametable bit and coarse Y come from `t`. -/
theorem Ppu.copyVertical_v (p : Ppu) : p.copyVertical.v =
    scrollOf (fineY p.t) (verticalBit p.t) (horizontalBit p.v) (coarseY p.t) (coarseX p.v) := by
  show p.v &&& scrollOf 0 0 (.allOnes 1) 0 (.allOnes 5) ||| p.t &&& scrollOf (.allOnes 3) (.allOnes 1) 0 (.allOnes 5) 0 = _
  conv_lhs => rw [← scrollOf_fields p.v, ← scrollOf_fields p.t]
  rw [scrollOf_and, scrollOf_and, scrollOf_or]
  simp only [BitVec.ofNat_eq_ofNat, BitVec.and_allOnes, BitVec.and_zero, BitVec.or_zero, BitVec.zero_or]

/-- Fine Y and the vertical nametable bit stand side by side, `v[14:11]`. -/
theorem scrollOf_eq (v t : BitVec 15) (y x : BitVec 5) : scrollOf (fineY v) (verticalBit v) (horizontalBit t) y x =
    v.extractLsb' 11 4 ++ t.extractLsb' 10 1 ++ y ++ x := by
  rw [scrollOf, fineY, verticalBit, horizontalBit, BitVec.extractLsb'_append_extractLsb'_eq_extractLsb' (show 12 = 11 + 1 from rfl)]

/-! ## The next tile and the next row -/

/-- R294: past column 31 the tile is the first of the nametable beside. -/
theorem incCoarseX_wrap {v : BitVec 15} (h : coarseX v = 31) : incCoarseX v =
    scrollOf (fineY v) (verticalBit v) (~~~ horizontalBit v) (coarseY v) 0#5 := by
  rw [incCoarseX, if_pos h]
  show v &&& scrollOf (.allOnes 3) (.allOnes 1) (.allOnes 1) (.allOnes 5) 0 ^^^ scrollOf 0 0 (BitVec.allOnes 1) 0 0 = _
  conv_lhs => rw [← scrollOf_fields v]
  rw [scrollOf_and, scrollOf_xor, BitVec.xor_allOnes]
  simp only [BitVec.ofNat_eq_ofNat, BitVec.and_allOnes, BitVec.and_zero, BitVec.xor_zero]

/-- R295: past row 29 the tile is the first of the nametable below. -/
theorem incY_wrap {v : BitVec 15} (hf : ¬ (fineY v).toNat < 7) (h : coarseY v = 29) : incY v =
    scrollOf 0#3 (~~~ verticalBit v) (horizontalBit v) 0#5 (coarseX v) := by
  rw [incY, if_neg hf, if_pos h]
  show (v &&& scrollOf 0 (.allOnes 1) (.allOnes 1) (.allOnes 5) (.allOnes 5) ^^^ scrollOf 0 (BitVec.allOnes 1) 0 0 0) &&& scrollOf (.allOnes 3) (.allOnes 1) (.allOnes 1) 0 (.allOnes 5) = _
  conv_lhs => rw [← scrollOf_fields v]
  rw [scrollOf_and, scrollOf_xor, BitVec.xor_allOnes, scrollOf_and]
  simp only [BitVec.ofNat_eq_ofNat, BitVec.and_allOnes, BitVec.and_zero, BitVec.xor_zero]

/-- R295: any other row is followed by the next modulo 32, row 31 by row 0. -/
theorem incY_row {v : BitVec 15} (hf : ¬ (fineY v).toNat < 7) (h : coarseY v ≠ 29) : incY v =
    scrollOf 0#3 (verticalBit v) (horizontalBit v) (coarseY v + 1#5) (coarseX v) := by
  have hcleared : v &&& 0x0FFF &&& 0x7C1F = scrollOf 0 (verticalBit v) (horizontalBit v) 0 (coarseX v) := by
    show v &&& scrollOf 0 (.allOnes 1) (.allOnes 1) (.allOnes 5) (.allOnes 5) &&& scrollOf (.allOnes 3) (.allOnes 1) (.allOnes 1) 0 (.allOnes 5) = _
    conv_lhs => rw [← scrollOf_fields v]
    rw [scrollOf_and, scrollOf_and]
    simp only [BitVec.ofNat_eq_ofNat, BitVec.and_allOnes, BitVec.and_zero]
  have hplaced : (coarseY v + 1).setWidth 15 <<< 5 = scrollOf 0 0 0 (coarseY v + 1) 0 :=
    setWidth_shiftLeft_eq_append (h := 5) (l := 5) _
  rw [incY, if_neg hf, if_neg h]
  split
  case isTrue hlast => rw [hcleared, hlast]; rfl
  case isFalse =>
    refine (congrArg₂ (· ||| ·) hcleared hplaced).trans ?_
    rw [scrollOf_or]
    simp only [BitVec.ofNat_eq_ofNat, BitVec.or_zero, BitVec.zero_or]

/-! ## The moves in numbers -/

/-- R294 in coordinates. -/
theorem toNat_incCoarseX (v : BitVec 15) : (incCoarseX v).toNat % 32 = (v.toNat % 32 + 1) % 32 ∧
    (incCoarseX v).toNat / 1024 % 2 = (v.toNat / 1024 + (if v.toNat % 32 = 31 then 1 else 0)) % 2 ∧
    (incCoarseX v).toNat / 32 % 32 = v.toNat / 32 % 32 ∧ (incCoarseX v).toNat / 2048 = v.toNat / 2048 := by
  have hv := v.isLt
  have hcolumn := toNat_coarseX v
  by_cases h : coarseX v = 31
  · have hlast : v.toNat % 32 = 31 := by rw [← hcolumn, h]; rfl
    rw [incCoarseX_wrap h, toNat_scrollOf, BitVec.toNat_not, toNat_fineY, toNat_verticalBit, toNat_horizontalBit, toNat_coarseY,
      if_pos hlast, BitVec.toNat_ofNat]
    omega
  · have hlast : v.toNat % 32 ≠ 31 := fun e => h (BitVec.eq_of_toNat_eq (hcolumn.trans e))
    have hadd : (incCoarseX v).toNat = v.toNat + 1 := by
      rw [incCoarseX, if_neg h, BitVec.toNat_add_of_lt (show v.toNat + 1 < 2 ^ 15 by omega)]
      rfl
    rw [hadd, if_neg hlast]
    omega

/-- R295 in coordinates. -/
theorem toNat_incY (v : BitVec 15) : (incY v).toNat / 4096 = (v.toNat / 4096 + 1) % 8 ∧
    (incY v).toNat / 32 % 32 = (if v.toNat / 4096 < 7 then v.toNat / 32 % 32
      else if v.toNat / 32 % 32 = 29 then 0 else (v.toNat / 32 % 32 + 1) % 32) ∧
    (incY v).toNat / 2048 % 2 = (v.toNat / 2048 +
      (if v.toNat / 4096 = 7 ∧ v.toNat / 32 % 32 = 29 then 1 else 0)) % 2 ∧
    (incY v).toNat % 32 = v.toNat % 32 ∧ (incY v).toNat / 1024 % 2 = v.toNat / 1024 % 2 := by
  have hv := v.isLt
  have hfine := toNat_fineY v
  have hrow := toNat_coarseY v
  by_cases hf : (fineY v).toNat < 7
  · have hadd : (incY v).toNat = v.toNat + 4096 := by
      rw [incY, if_pos hf, BitVec.toNat_add_of_lt (show v.toNat + 4096 < 2 ^ 15 by omega)]
      rfl
    rw [hadd, if_pos (by omega), if_neg (by omega)]
    omega
  · by_cases h : coarseY v = 29
    · have hlast : v.toNat / 32 % 32 = 29 := by rw [← hrow, h]; rfl
      rw [incY_wrap hf h, toNat_scrollOf, BitVec.toNat_not, toNat_verticalBit, toNat_horizontalBit, toNat_coarseX,
        BitVec.toNat_ofNat, BitVec.toNat_ofNat, if_neg (by omega), if_pos hlast, if_pos (by omega)]
      omega
    · have hlast : v.toNat / 32 % 32 ≠ 29 := fun e => h (BitVec.eq_of_toNat_eq (hrow.trans e))
      rw [incY_row hf h, toNat_scrollOf, BitVec.toNat_add, toNat_coarseY, toNat_verticalBit, toNat_horizontalBit, toNat_coarseX,
        BitVec.toNat_ofNat, BitVec.toNat_ofNat, if_neg (by omega), if_neg hlast, if_neg (by omega)]
      omega

/-! ## When a cycle moves `v` -/

theorem fetchWindow_eq_true_iff {c : Nat} : fetchWindow c = true ↔ (1 ≤ c ∧ c ≤ 256) ∨ (321 ≤ c ∧ c ≤ 336) := by
  simp only [fetchWindow, Bool.or_eq_true, Bool.and_eq_true, decide_eq_true_eq]

theorem renderLine_eq_true_iff {line : Nat} : renderLine line = true ↔ line ≤ 239 ∨ line = 261 := by
  simp only [renderLine, Bool.or_eq_true, decide_eq_true_eq, beq_iff_eq]

/-- R294: the reload moves `v` on; the fetches leave it. -/
theorem Ppu.fetchStep_v (m : Mirroring) (c : Nat) (p : Ppu) :
    (p.fetchStep m c).v = if c % 8 = 0 then incCoarseX p.v else p.v := by
  unfold Ppu.fetchStep
  split <;> simp_all [Ppu.reload]

/-- The moves of a fetch window (R294, R295). -/
theorem Ppu.renderEnabled_v_window {p : Ppu} (m : Mirroring) (h : fetchWindow p.cycle = true) : (p.renderEnabled m).v =
    if p.cycle = 256 then incY (incCoarseX p.v) else if p.cycle % 8 = 0 then incCoarseX p.v else p.v := by
  obtain ⟨fb, hr⟩ := Ppu.renderEnabled_window m h
  rw [hr, whenever]
  by_cases hc : p.cycle = 256
  · rw [if_pos (beq_iff_eq.mpr hc), if_pos hc]
    show incY (Ppu.fetchStep m p.cycle _).v = _
    rw [Ppu.fetchStep_v, if_pos (by omega)]
    rfl
  · rw [if_neg (mt beq_iff_eq.mp hc), if_neg hc, Ppu.fetchStep_v]
    rfl

/-- The copies outside the fetch windows (R296, R297); no cycle makes both. -/
theorem Ppu.renderEnabled_v_idle {p : Ppu} (m : Mirroring) (h : fetchWindow p.cycle = false) : (p.renderEnabled m).v =
    if p.cycle = 257 then p.copyHorizontal.v
    else if p.scanline = 261 ∧ 280 ≤ p.cycle ∧ p.cycle ≤ 304 then p.copyVertical.v else p.v := by
  rw [Ppu.renderEnabled_idle m h]
  by_cases hc : p.cycle = 257
  · simp [whenever, hc]
  · simp [whenever, hc, and_assoc, apply_ite Ppu.v]

end Sys2Proof.Machine

namespace Sys2Proof

open Sys2Proof.Machine

/-- Settles O58: the pipeline moves `v` in a fetch window (`Ppu.renderEnabled_v_window`) and outside (`Ppu.renderEnabled_v_idle`),
and nowhere else (`Ppu.next_disabled`); the moves in coordinates are `toNat_incCoarseX` and `toNat_incY`. -/
theorem scrollSteps : Obligations.ScrollSteps := by
  refine ⟨fun s => ?moves, fun v => ⟨toNat_incCoarseX v, toNat_incY v⟩⟩
  rw [ppuCycle_ppu]
  generalize s.ppu = p
  split
  case isTrue h =>
    obtain ⟨he, hl⟩ := h
    obtain ⟨_, _, _, hnext⟩ := Ppu.next_enabled s.launch s.spriteDraws (renderLine_eq_true_iff.mpr hl) he
    rw [hnext]
    show (p.renderEnabled s.launch.mirroring).v = _
    cases hw : fetchWindow p.cycle with
    | true =>
      rw [Ppu.renderEnabled_v_window _ hw]
      rw [fetchWindow_eq_true_iff] at hw
      by_cases hc : p.cycle = 256
      · rw [if_pos hc, if_pos hc]
      · have hin : (1 ≤ p.cycle ∧ p.cycle ≤ 255) ∨ (321 ≤ p.cycle ∧ p.cycle ≤ 336) := by omega
        rw [if_neg hc, if_neg hc, if_neg (show p.cycle ≠ 257 by omega),
          if_neg (show ¬ (p.scanline = 261 ∧ 280 ≤ p.cycle ∧ p.cycle ≤ 304) by omega)]
        simp only [hin, and_true]
    | false =>
      rw [Ppu.renderEnabled_v_idle _ hw, Ppu.copyHorizontal_v, Ppu.copyVertical_v, scrollOf_eq, scrollOf_eq]
      rw [← Bool.not_eq_true, fetchWindow_eq_true_iff] at hw
      rw [if_neg (show p.cycle ≠ 256 by omega), if_neg (show ¬ (p.cycle % 8 = 0 ∧
        ((1 ≤ p.cycle ∧ p.cycle ≤ 255) ∨ (321 ≤ p.cycle ∧ p.cycle ≤ 336))) by omega)]
      rfl
  case isFalse h =>
    obtain ⟨fb, hnext⟩ := Ppu.next_disabled s.launch s.spriteDraws (p := p)
      (by rw [← Bool.not_eq_true, Bool.and_eq_true]; exact fun ⟨hl, he⟩ => h ⟨he, renderLine_eq_true_iff.mp hl⟩)
    rw [hnext]
    rfl

end Sys2Proof
end

section
/-!
PROOFS. The fetch pipeline (R288 to R294, R298): one cycle of a fetch window is `Ppu.pipeStep` on the registers, latches, shifters
and memories (`Ppu.next_pipe`); what it does to each latch and shifter, in numbers; and what eight of them in a row make.
-/
namespace Sys2Proof.Machine

/-! ## The addresses in numbers -/

/-- A mask at a place takes the masked field at that place. -/
theorem and_mul_two_pow (n mask lo : Nat) : n &&& mask * 2 ^ lo = (n / 2 ^ lo &&& mask) * 2 ^ lo := by
  apply Nat.eq_of_testBit_eq
  intro i
  rw [Nat.testBit_and, Nat.testBit_mul_two_pow, Nat.testBit_mul_two_pow, Nat.testBit_and, Nat.testBit_div_two_pow]
  by_cases h : lo ≤ i
  · rw [Nat.sub_add_cancel h]
    simp [h]
  · simp [h]

theorem and_field (n len lo : Nat) : n &&& (2 ^ len - 1) * 2 ^ lo = n / 2 ^ lo % 2 ^ len * 2 ^ lo := by
  rw [and_mul_two_pow, Nat.and_two_pow_sub_one_eq_mod]

/-- R290. -/
theorem nametableAddress_eq (v : BitVec 15) : nametableAddress v = BitVec.ofNat 14 (0x2000 + v.toNat % 4096) := by
  apply BitVec.eq_of_toNat_eq
  have hmask : v.toNat &&& 0x0FFF = v.toNat % 4096 := Nat.and_two_pow_sub_one_eq_mod v.toNat 12
  have hor : 0x2000 ||| v.toNat % 4096 = 0x2000 + v.toNat % 4096 :=
    (Nat.two_pow_add_eq_or_of_lt (i := 13) (by omega) 1).symm
  rw [nametableAddress, BitVec.toNat_or, BitVec.toNat_setWidth, BitVec.toNat_and, BitVec.toNat_ofNat]
  show 0x2000 ||| (v.toNat &&& 0x0FFF) % 2 ^ 14 = _
  rw [hmask, Nat.mod_eq_of_lt (show v.toNat % 4096 < 2 ^ 14 by omega), hor]
  omega

/-- The four parts of an attribute address lie beside each other. -/
theorem attributeFields : ∀ table < 4, ∀ y < 8, ∀ x < 8,
    0x23C0 ||| (table * 2 ^ 10 ||| y * 2 ^ 3 ||| x) = 0x23C0 + table * 1024 + y * 8 + x := by
  decide

/-- R291. -/
theorem toNat_attributeAddress (v : BitVec 15) : (attributeAddress v).toNat =
    0x23C0 + v.toNat / 1024 % 4 * 1024 + v.toNat / 128 % 8 * 8 + v.toNat / 4 % 8 := by
  have htable : v.toNat &&& 0x0C00 = v.toNat / 1024 % 4 * 2 ^ 10 := and_field v.toNat 2 10
  have hy : v.toNat / 2 ^ 4 &&& 0x38 = v.toNat / 128 % 8 * 2 ^ 3 := by
    rw [show v.toNat / 128 = v.toNat / 2 ^ 4 / 2 ^ 3 by omega]
    exact and_field _ 3 3
  have hx : v.toNat / 2 ^ 2 &&& 0x07 = v.toNat / 4 % 8 := Nat.and_two_pow_sub_one_eq_mod _ 3
  have hfields := attributeFields (v.toNat / 1024 % 4) (by omega) (v.toNat / 128 % 8) (by omega) (v.toNat / 4 % 8) (by omega)
  have hv := v.isLt
  rw [attributeAddress, BitVec.toNat_or, BitVec.toNat_setWidth, BitVec.toNat_or, BitVec.toNat_or, BitVec.toNat_and,
    BitVec.toNat_and, BitVec.toNat_and, BitVec.toNat_ushiftRight, BitVec.toNat_ushiftRight, Nat.shiftRight_eq_div_pow,
    Nat.shiftRight_eq_div_pow]
  show 0x23C0 ||| ((v.toNat &&& 0x0C00 ||| v.toNat / 2 ^ 4 &&& 0x38) ||| v.toNat / 2 ^ 2 &&& 0x07) % 2 ^ 14 = _
  rw [htable, hy, hx, Nat.mod_eq_of_lt, hfields]
  exact Nat.or_lt_two_pow (Nat.or_lt_two_pow (by omega) (by omega)) (by omega)

theorem attributeAddress_eq (v : BitVec 15) : attributeAddress v =
    BitVec.ofNat 14 (0x23C0 + v.toNat / 1024 % 4 * 1024 + v.toNat / 128 % 8 * 8 + v.toNat / 4 % 8) := by
  rw [← toNat_attributeAddress, BitVec.ofNat_toNat, BitVec.setWidth_eq]

/-- R292. -/
theorem Ppu.patternAddress_eq (p : Ppu) : p.patternAddress =
    BitVec.ofNat 14 (0x1000 * carryNat (p.ctrl.getLsbD 4) + 16 * p.ntLatch.toNat + p.v.toNat / 4096) := by
  apply BitVec.eq_of_toNat_eq
  have hnt := p.ntLatch.isLt
  have hv := p.v.isLt
  have htable : ((if p.bgTable then 0x1000 else 0x0000 : Nat) : BitVec 14).toNat = 0x1000 * carryNat (p.ctrl.getLsbD 4) := by
    rw [Ppu.bgTable]
    cases p.ctrl.getLsbD 4 <;> rfl
  simp only [Ppu.patternAddress, BitVec.toNat_add, BitVec.toNat_shiftLeft, BitVec.toNat_setWidth, Nat.shiftLeft_eq, htable,
    toNat_fineY, BitVec.toNat_ofNat]
  omega

/-! ## The attribute selector in numbers -/

theorem carryNat_getLsbD {w : Nat} (v : BitVec w) (i : Nat) : carryNat (v.getLsbD i) = v.toNat / 2 ^ i % 2 := by
  rw [← BitVec.testBit_toNat, Nat.testBit_eq_decide_div_mod_eq]
  unfold carryNat
  split <;> simp_all

/-- R294, R298: the selector of the tile that `v` names. -/
theorem toNat_attributeSelect (attr : Byte) (v : BitVec 15) :
    (attributeSelect attr (v.getLsbD 6) (v.getLsbD 1)).toNat =
      attr.toNat / 2 ^ (4 * (v.toNat / 64 % 2) + 2 * (v.toNat / 2 % 2)) % 4 := by
  have hy : (if v.getLsbD 6 then 4 else 0) = 4 * (v.toNat / 64 % 2) := by
    rw [show v.toNat / 64 % 2 = carryNat (v.getLsbD 6) from (carryNat_getLsbD v 6).symm]
    cases v.getLsbD 6 <;> rfl
  have hx : (if v.getLsbD 1 then 2 else 0) = 2 * (v.toNat / 2 % 2) := by
    rw [show v.toNat / 2 % 2 = carryNat (v.getLsbD 1) from (carryNat_getLsbD v 1).symm]
    cases v.getLsbD 1 <;> rfl
  rw [attributeSelect, hy, hx, BitVec.extractLsb'_toNat, BitVec.toNat_ushiftRight, Nat.shiftRight_zero,
    Nat.shiftRight_eq_div_pow]

/-- A 2-bit number in its bits. -/
theorem carryNat_twoBits (sel : BitVec 2) : 2 * carryNat (sel.getLsbD 1) + carryNat (sel.getLsbD 0) = sel.toNat := by
  revert sel
  decide

/-! ## The shifters in numbers -/

/-- R289: a shift of a pattern shifter doubles it. -/
theorem shiftLeft_one_eq (x : BitVec 16) : x <<< 1 = BitVec.ofNat 16 (2 * x.toNat % 65536) := by
  apply BitVec.eq_of_toNat_eq
  rw [BitVec.toNat_shiftLeft, Nat.shiftLeft_eq, BitVec.toNat_ofNat]
  omega

/-- R289: an attribute shifter takes its latch at the right. -/
def shiftIn (b : Bool) (x : Byte) : Byte := (x <<< 1) ||| BitVec.setWidth 8 (BitVec.ofBool b)

theorem shiftIn_eq (b : Bool) (x : Byte) : shiftIn b x = BitVec.ofNat 8 (2 * x.toNat % 256 + carryNat b) := by
  revert b x
  decide +kernel

/-- R289: eight shifts fill an attribute shifter from its latch. -/
theorem shiftIn_eight (b : Bool) (x : Byte) : (shiftIn b)^[8] x = if b then 0xFF else 0x00 := by
  revert b x
  decide +kernel

/-- R294: the reload replaces the low half of a pattern shifter. -/
theorem reload_eq (x : BitVec 16) (d : Byte) : (x &&& (0xFF00 : BitVec 16)) ||| d.setWidth 16 = x.extractLsb' 8 8 ++ d :=
  maskOr_lowField (h := 8) x d

/-- A field of a shifted vector is the lower field of the vector. -/
theorem extractLsb'_shiftLeft {w : Nat} (x : BitVec w) (start len n : Nat) (h : start + n + len ≤ w) :
    (x <<< n).extractLsb' (start + n) len = x.extractLsb' start len := by
  ext i hi
  rw [BitVec.getElem_extractLsb', BitVec.getElem_extractLsb', BitVec.getLsbD_shiftLeft]
  have hin : start + n + i < w := by omega
  have hnot : ¬ start + n + i < n := by omega
  simp only [hin, hnot, decide_true, decide_false, Bool.not_false, Bool.true_and]
  congr 1
  omega

/-! ## One cycle of a fetch window -/

/-- The pipeline of the PPU and what it reads: the status bits, the position and the picture are put at 0. -/
def Ppu.pipe (p : Ppu) : Ppu :=
  { p with vblank := false, sprite0Hit := false, spriteOverflow := false, scanline := 0, cycle := 0, fb := [] }

/-- One cycle of a fetch window on the pipeline (R280): the shift, the fetch, and the step to the next row at cycle 256. -/
def Ppu.pipeStep (m : Mirroring) (c : Nat) (p : Ppu) : Ppu :=
  whenever (c == 256) (fun p => { p with v := incY p.v }) (p.shiftStep.fetchStep m c)

theorem Ppu.fetchStep_pipe (m : Mirroring) (c : Nat) (p : Ppu) : (p.fetchStep m c).pipe = p.pipe.fetchStep m c := by
  unfold Ppu.fetchStep
  split <;> rfl

/-- A position in a fetch window of a render line, with rendering enabled (R280, R287, R288). -/
def Ppu.fetching (p : Ppu) : Bool := renderLine p.scanline && p.renderingEnabled && fetchWindow p.cycle

theorem Ppu.next_pipe (l : Launch) (n : Nat) {p : Ppu} (h : p.fetching = true) :
    (p.next l n).pipe = p.pipe.pipeStep l.mirroring p.cycle := by
  simp only [Ppu.fetching, Bool.and_eq_true] at h
  obtain ⟨⟨hl, he⟩, hw⟩ := h
  obtain ⟨_, _, _, hnext⟩ := Ppu.next_enabled l n hl he
  obtain ⟨fb, hrender⟩ := Ppu.renderEnabled_window l.mirroring hw
  have hpipe : (p.renderEnabled l.mirroring).pipe = p.pipe.pipeStep l.mirroring p.cycle := by
    rw [hrender, ← whenever_comm (g := Ppu.pipe) (f := fun q : Ppu => { q with v := incY q.v }) (fun _ => rfl),
      Ppu.fetchStep_pipe]
    rfl
  rw [hnext, ← hpipe]
  rfl

/-- What the fetch and the reload do to the latches (R290 to R293). -/
theorem Ppu.fetchStep_latches (m : Mirroring) (c : Nat) (p : Ppu) :
    (p.fetchStep m c).ntLatch = (if c % 8 = 1 then vramRead m p (nametableAddress p.v) else p.ntLatch) ∧
    (p.fetchStep m c).atLatch = (if c % 8 = 3 then vramRead m p (attributeAddress p.v) else p.atLatch) ∧
    (p.fetchStep m c).ptLoLatch = (if c % 8 = 5 then vramRead m p p.patternAddress else p.ptLoLatch) ∧
    (p.fetchStep m c).ptHiLatch = (if c % 8 = 7 then vramRead m p (p.patternAddress + 8) else p.ptHiLatch) := by
  unfold Ppu.fetchStep
  split <;> simp_all [Ppu.reload]

/-- What the fetch and the reload do to the shifters and the attribute latches (R294). -/
theorem Ppu.fetchStep_shifters (m : Mirroring) (c : Nat) (p : Ppu) :
    (p.fetchStep m c).bgLo = (if c % 8 = 0 then p.bgLo.extractLsb' 8 8 ++ p.ptLoLatch else p.bgLo) ∧
    (p.fetchStep m c).bgHi = (if c % 8 = 0 then p.bgHi.extractLsb' 8 8 ++ p.ptHiLatch else p.bgHi) ∧
    (p.fetchStep m c).atLo = p.atLo ∧ (p.fetchStep m c).atHi = p.atHi ∧
    2 * carryNat (p.fetchStep m c).atBitHi + carryNat (p.fetchStep m c).atBitLo =
      (if c % 8 = 0 then (attributeSelect p.atLatch (p.v.getLsbD 6) (p.v.getLsbD 1)).toNat
        else 2 * carryNat p.atBitHi + carryNat p.atBitLo) := by
  unfold Ppu.fetchStep
  split
  case h_5 h =>
    rw [if_pos h, if_pos h, if_pos h]
    exact ⟨reload_eq _ _, reload_eq _ _, rfl, rfl, carryNat_twoBits _⟩
  all_goals simp_all

/-- R290 to R293: the latch whose turn it is takes the byte that `v` names. -/
theorem Ppu.pipeStep_latches (m : Mirroring) (c : Nat) (p : Ppu) :
    (p.pipeStep m c).ntLatch = (if c % 8 = 1 then vramRead m p (nametableAddress p.v) else p.ntLatch) ∧
    (p.pipeStep m c).atLatch = (if c % 8 = 3 then vramRead m p (attributeAddress p.v) else p.atLatch) ∧
    (p.pipeStep m c).ptLoLatch = (if c % 8 = 5 then vramRead m p p.patternAddress else p.ptLoLatch) ∧
    (p.pipeStep m c).ptHiLatch = (if c % 8 = 7 then vramRead m p (p.patternAddress + 8) else p.ptHiLatch) := by
  obtain ⟨hnt, hat, hlo, hhi⟩ := Ppu.fetchStep_latches m c p.shiftStep
  exact ⟨(whenever_keeps Ppu.ntLatch _ _ (fun _ => by rfl) _).trans hnt,
    (whenever_keeps Ppu.atLatch _ _ (fun _ => by rfl) _).trans hat,
    (whenever_keeps Ppu.ptLoLatch _ _ (fun _ => by rfl) _).trans hlo,
    (whenever_keeps Ppu.ptHiLatch _ _ (fun _ => by rfl) _).trans hhi⟩

/-- R289, R294: the pattern shifters shift, and at the reload take the pattern latches as well. -/
theorem Ppu.pipeStep_pattern (m : Mirroring) (c : Nat) (p : Ppu) :
    (p.pipeStep m c).bgLo = (if c % 8 = 0 then p.bgLo.extractLsb' 7 8 ++ p.ptLoLatch else p.bgLo <<< 1) ∧
    (p.pipeStep m c).bgHi = (if c % 8 = 0 then p.bgHi.extractLsb' 7 8 ++ p.ptHiLatch else p.bgHi <<< 1) := by
  obtain ⟨hlo, hhi, -⟩ := Ppu.fetchStep_shifters m c p.shiftStep
  have hhalf : ∀ x : BitVec 16, (x <<< 1).extractLsb' 8 8 = x.extractLsb' 7 8 := fun x =>
    extractLsb'_shiftLeft x 7 8 1 (by decide)
  rw [← hhalf p.bgLo, ← hhalf p.bgHi]
  exact ⟨(whenever_keeps Ppu.bgLo _ _ (fun _ => by rfl) _).trans hlo,
    (whenever_keeps Ppu.bgHi _ _ (fun _ => by rfl) _).trans hhi⟩

/-- R289, R294, R298: the attribute shifters take their latches, which the reload sets to the selector of the tile. -/
theorem Ppu.pipeStep_attribute (m : Mirroring) (c : Nat) (p : Ppu) :
    (p.pipeStep m c).atLo = shiftIn p.atBitLo p.atLo ∧ (p.pipeStep m c).atHi = shiftIn p.atBitHi p.atHi ∧
    2 * carryNat (p.pipeStep m c).atBitHi + carryNat (p.pipeStep m c).atBitLo =
      (if c % 8 = 0 then p.atLatch.toNat / 2 ^ (4 * (p.v.toNat / 64 % 2) + 2 * (p.v.toNat / 2 % 2)) % 4
        else 2 * carryNat p.atBitHi + carryNat p.atBitLo) := by
  obtain ⟨-, -, hlo, hhi, hbits⟩ := Ppu.fetchStep_shifters m c p.shiftStep
  rw [← toNat_attributeSelect]
  exact ⟨(whenever_keeps Ppu.atLo _ _ (fun _ => by rfl) _).trans hlo,
    (whenever_keeps Ppu.atHi _ _ (fun _ => by rfl) _).trans hhi,
    (whenever_keeps (fun q : Ppu => 2 * carryNat q.atBitHi + carryNat q.atBitLo) _ _ (fun _ => by rfl) _).trans hbits⟩

/-- R294, R295: the reload moves `v` to the next tile, and at cycle 256 to the next row as well. -/
theorem Ppu.pipeStep_v (m : Mirroring) {c : Nat} (p : Ppu) (h : c % 8 = 0) :
    (p.pipeStep m c).v = if c = 256 then incY (incCoarseX p.v) else incCoarseX p.v := by
  have hv : (p.shiftStep.fetchStep m c).v = incCoarseX p.v := (Ppu.fetchStep_v m c _).trans (if_pos h)
  unfold Ppu.pipeStep whenever
  by_cases hc : c = 256
  · rw [if_pos (beq_iff_eq.mpr hc), if_pos hc, ← hv]
  · rw [if_neg (mt beq_iff_eq.mp hc), if_neg hc, ← hv]

theorem Ppu.pipeStep_still (m : Mirroring) (c : Nat) (p : Ppu) : (p.pipeStep m c).still = p.still :=
  (whenever_keeps Ppu.still _ _ (fun _ => by rfl) _).trans (Ppu.fetchStep_still m c p.shiftStep)

/-- Outside the fetch windows, off the render lines and with rendering disabled, the latches and the shifters stay (R280). -/
theorem Ppu.next_idle (l : Launch) (n : Nat) {p : Ppu} (h : p.fetching = false) : ∃ v fb a b c line column, p.next l n =
    { p with
      v := v, fb := fb, vblank := a, sprite0Hit := b, spriteOverflow := c, scanline := line, cycle := column } := by
  rw [Ppu.fetching] at h
  cases hr : renderLine p.scanline && p.renderingEnabled with
  | false =>
    obtain ⟨fb, hnext⟩ := Ppu.next_disabled l n hr
    exact ⟨_, _, _, _, _, _, _, hnext⟩
  | true =>
    rw [hr, Bool.true_and] at h
    rw [Bool.and_eq_true] at hr
    obtain ⟨hl, he⟩ := hr
    obtain ⟨_, _, _, hnext⟩ := Ppu.next_enabled l n hl he
    have hv : ∃ v, p.renderEnabled l.mirroring = { p with v := v } := by
      rw [Ppu.renderEnabled_idle _ h]
      unfold whenever
      split_ifs <;> exact ⟨_, rfl⟩
    obtain ⟨v, hv⟩ := hv
    rw [hnext, hv]
    exact ⟨v, p.fb, _, _, _, _, _, rfl⟩

/-! ## Cycles of a fetch window in a row -/

/-- The pipeline after `k` cycles of a fetch window from cycle `c` on. -/
def Ppu.pipeRun (m : Mirroring) (c : Nat) : Nat → Ppu → Ppu
  | 0, p => p
  | k + 1, p => (pipeRun m c k p).pipeStep m (c + k)

theorem Ppu.next_mask (l : Launch) (n : Nat) (p : Ppu) : (p.next l n).mask = p.mask := by
  obtain ⟨_, _, _, _, _, _, _, _, _, _, _, _, _, _, h⟩ := Ppu.next_frame l n p
  rw [h]

theorem fetchWindow_lt {c : Nat} (h : fetchWindow c = true) : c < 340 := by
  rw [fetchWindow_eq_true_iff] at h
  omega

/-- By the count of cycles: while all positions lie in a fetch window, the pipeline runs and the position moves along the line. -/
theorem pipe_iterate {s : State} (hl : renderLine s.ppu.scanline = true) (he : s.ppu.renderingEnabled = true) (k : Nat)
    (hw : ∀ j < k, fetchWindow (s.ppu.cycle + j) = true) :
    (ppuCycle^[k] s).ppu.scanline = s.ppu.scanline ∧ (ppuCycle^[k] s).ppu.cycle = s.ppu.cycle + k ∧
    (ppuCycle^[k] s).ppu.mask = s.ppu.mask ∧
    (ppuCycle^[k] s).ppu.pipe = Ppu.pipeRun s.launch.mirroring s.ppu.cycle k s.ppu.pipe := by
  induction k with
  | zero => exact ⟨rfl, rfl, rfl, rfl⟩
  | succ k ih =>
    obtain ⟨hscanline, hcycle, hmask, hpipe⟩ := ih fun j hj => hw j (by omega)
    have hwk := hw k (by omega)
    have hlast := fetchWindow_lt hwk
    have hfetching : (ppuCycle^[k] s).ppu.fetching = true := by
      rw [Ppu.fetching, Ppu.renderingEnabled, Ppu.bgEnable, Ppu.spriteEnable, hscanline, hcycle, hmask, hl, hwk, Bool.true_and,
        Bool.and_true]
      exact he
    rw [Function.iterate_succ_apply', ppuCycle_ppu, Ppu.next_scanline, Ppu.next_cycle, Ppu.next_mask, Ppu.next_pipe _ _ hfetching]
    simp only [Ppu.advanced, hcycle, if_neg (show s.ppu.cycle + k ≠ 340 by omega)]
    refine ⟨hscanline, rfl, hmask, ?_⟩
    rw [iterate_launch, hpipe, Ppu.pipeRun]

/-- The PPU in the middle of a tile: its latches, and its shifters after `k` shifts. -/
def Ppu.midTile (p : Ppu) (nt attr lo hi : Byte) (k : Nat) : Ppu :=
  { p with
    ntLatch := nt, atLatch := attr, ptLoLatch := lo, ptHiLatch := hi
    bgLo := p.bgLo <<< k, bgHi := p.bgHi <<< k
    atLo := (shiftIn p.atBitLo)^[k] p.atLo, atHi := (shiftIn p.atBitHi)^[k] p.atHi }

theorem Ppu.midTile_zero (p : Ppu) : p.midTile p.ntLatch p.atLatch p.ptLoLatch p.ptHiLatch 0 = p := by
  rw [Ppu.midTile, BitVec.shiftLeft_zero, BitVec.shiftLeft_zero]
  rfl

section
variable (m : Mirroring) (p : Ppu) (nt attr lo hi : Byte) (k : Nat) {c : Nat}

theorem Ppu.midTile_shiftStep : (p.midTile nt attr lo hi k).shiftStep = p.midTile nt attr lo hi (k + 1) := by
  unfold Ppu.midTile
  rw [BitVec.shiftLeft_add, BitVec.shiftLeft_add, Function.iterate_succ_apply', Function.iterate_succ_apply']
  rfl

theorem Ppu.midTile_pipeStep (hc : c % 8 ≠ 0) :
    (p.midTile nt attr lo hi k).pipeStep m c = (p.midTile nt attr lo hi (k + 1)).fetchStep m c := by
  rw [← Ppu.midTile_shiftStep]
  exact if_neg (by rw [beq_iff_eq]; rintro rfl; exact hc rfl)

theorem Ppu.midTile_even (hc : c % 8 = 2 ∨ c % 8 = 4 ∨ c % 8 = 6) :
    (p.midTile nt attr lo hi k).pipeStep m c = p.midTile nt attr lo hi (k + 1) := by
  rw [Ppu.midTile_pipeStep m p _ _ _ _ _ (by omega)]
  obtain h | h | h := hc <;> simp only [Ppu.fetchStep, h]

theorem Ppu.midTile_one (hc : c % 8 = 1) : (p.midTile nt attr lo hi k).pipeStep m c =
    p.midTile (vramRead m p (nametableAddress p.v)) attr lo hi (k + 1) := by
  rw [Ppu.midTile_pipeStep m p _ _ _ _ _ (by omega)]
  simp only [Ppu.fetchStep, hc]
  rfl

theorem Ppu.midTile_three (hc : c % 8 = 3) : (p.midTile nt attr lo hi k).pipeStep m c =
    p.midTile nt (vramRead m p (attributeAddress p.v)) lo hi (k + 1) := by
  rw [Ppu.midTile_pipeStep m p _ _ _ _ _ (by omega)]
  simp only [Ppu.fetchStep, hc]
  rfl

theorem Ppu.midTile_five (hc : c % 8 = 5) : (p.midTile nt attr lo hi k).pipeStep m c =
    p.midTile nt attr (vramRead m p ({ p with ntLatch := nt } : Ppu).patternAddress) hi (k + 1) := by
  rw [Ppu.midTile_pipeStep m p _ _ _ _ _ (by omega)]
  simp only [Ppu.fetchStep, hc]
  rfl

theorem Ppu.midTile_seven (hc : c % 8 = 7) : (p.midTile nt attr lo hi k).pipeStep m c =
    p.midTile nt attr lo (vramRead m p (({ p with ntLatch := nt } : Ppu).patternAddress + 8)) (k + 1) := by
  rw [Ppu.midTile_pipeStep m p _ _ _ _ _ (by omega)]
  simp only [Ppu.fetchStep, hc]
  rfl

end

/-- The first seven cycles of a tile fetch its four bytes and shift seven times; `v` and the attribute latches stay. -/
theorem Ppu.pipeRun_seven (m : Mirroring) {c : Nat} (p : Ppu) (hc : c % 8 = 1) {nt : Byte} {pattern : BitVec 14}
    (hnt : vramRead m p (nametableAddress p.v) = nt) (hpattern : ({ p with ntLatch := nt } : Ppu).patternAddress = pattern) :
    Ppu.pipeRun m c 7 p =
      p.midTile nt (vramRead m p (attributeAddress p.v)) (vramRead m p pattern) (vramRead m p (pattern + 8)) 7 := by
  conv_lhs => rw [← p.midTile_zero]
  simp only [Ppu.pipeRun, Nat.add_zero]
  rw [Ppu.midTile_one _ _ _ _ _ _ _ hc, Ppu.midTile_even _ _ _ _ _ _ _ (by omega),
    Ppu.midTile_three _ _ _ _ _ _ _ (by omega), Ppu.midTile_even _ _ _ _ _ _ _ (by omega),
    Ppu.midTile_five _ _ _ _ _ _ _ (by omega), Ppu.midTile_even _ _ _ _ _ _ _ (by omega),
    Ppu.midTile_seven _ _ _ _ _ _ _ (by omega), hnt, hpattern]

/-- A tile's eight cycles: after seven that fetch and shift, the eighth reloads, and `v` moves on. -/
theorem Ppu.pipeRun_eight (m : Mirroring) {c : Nat} (p : Ppu) (hc : c % 8 = 1) {nt : Byte} {pattern : BitVec 14}
    (hnt : vramRead m p (nametableAddress p.v) = nt) (hpattern : ({ p with ntLatch := nt } : Ppu).patternAddress = pattern) :
    (Ppu.pipeRun m c 8 p).bgLo = p.bgLo.extractLsb' 0 8 ++ vramRead m p pattern ∧
    (Ppu.pipeRun m c 8 p).bgHi = p.bgHi.extractLsb' 0 8 ++ vramRead m p (pattern + 8) ∧
    (Ppu.pipeRun m c 8 p).atLo = (if p.atBitLo then 0xFF else 0x00) ∧
    (Ppu.pipeRun m c 8 p).atHi = (if p.atBitHi then 0xFF else 0x00) ∧
    2 * carryNat (Ppu.pipeRun m c 8 p).atBitHi + carryNat (Ppu.pipeRun m c 8 p).atBitLo =
      (vramRead m p (attributeAddress p.v)).toNat / 2 ^ (4 * (p.v.toNat / 64 % 2) + 2 * (p.v.toNat / 2 % 2)) % 4 ∧
    (Ppu.pipeRun m c 8 p).v = (if c = 249 then incY (incCoarseX p.v) else incCoarseX p.v) ∧
    (Ppu.pipeRun m c 8 p).still = p.still := by
  have hlast : (c + 7) % 8 = 0 := by omega
  have hrow : c + 7 = 256 ↔ c = 249 := by omega
  have hhalf : ∀ x : BitVec 16, (x <<< 7).extractLsb' 7 8 = x.extractLsb' 0 8 := fun x =>
    extractLsb'_shiftLeft x 0 8 7 (by decide)
  rw [Ppu.pipeRun, Ppu.pipeRun_seven m p hc hnt hpattern]
  generalize hmid : p.midTile nt _ _ _ 7 = mid
  obtain ⟨hbgLo, hbgHi⟩ := Ppu.pipeStep_pattern m (c + 7) mid
  obtain ⟨hatLo, hatHi, hbits⟩ := Ppu.pipeStep_attribute m (c + 7) mid
  have hv := Ppu.pipeStep_v m mid hlast
  rw [if_pos hlast] at hbgLo hbgHi hbits
  simp only [hrow] at hv
  rw [hbgLo, hbgHi, hatLo, hatHi, hbits, hv, Ppu.pipeStep_still, ← hmid, ← shiftIn_eight, ← shiftIn_eight, ← hhalf, ← hhalf]
  exact ⟨rfl, rfl, rfl, rfl, rfl, rfl, rfl⟩

end Sys2Proof.Machine

namespace Sys2Proof

open Sys2Proof.Machine

/-- Settles O60: in a fetch window the cycle is `Ppu.pipeStep`, whose latches and shifters are said field by field; elsewhere the
renderer copies coordinates at most (`Ppu.renderEnabled_idle`, `Ppu.next_disabled`). -/
theorem fetchAndShiftCycle : Obligations.FetchAndShiftCycle := by
  rintro s p q m active pattern rfl rfl rfl hactive rfl
  have hfetching : s.ppu.fetching = active := by
    rw [hactive, Bool.eq_iff_iff, decide_eq_true_eq, Ppu.fetching, Bool.and_eq_true, Bool.and_eq_true, renderLine_eq_true_iff,
      fetchWindow_eq_true_iff, and_comm (a := _ ∨ _), and_assoc]
    rfl
  rw [ppuCycle_ppu]
  refine ⟨fun h => ?fetch, fun h => ?still⟩
  case fetch =>
    have hpipe := Ppu.next_pipe s.launch s.spriteDraws (hfetching.trans h)
    obtain ⟨hnt, hat, hlo, hhi⟩ := Ppu.pipeStep_latches s.launch.mirroring s.ppu.cycle s.ppu.pipe
    obtain ⟨hbgLo, hbgHi⟩ := Ppu.pipeStep_pattern s.launch.mirroring s.ppu.cycle s.ppu.pipe
    obtain ⟨hatLo, hatHi, hbits⟩ := Ppu.pipeStep_attribute s.launch.mirroring s.ppu.cycle s.ppu.pipe
    rw [← hpipe] at hnt hat hlo hhi hbgLo hbgHi hatLo hatHi hbits
    rw [← nametableAddress_eq, ← attributeAddress_eq, ← Ppu.patternAddress_eq, ← shiftLeft_one_eq, ← shiftLeft_one_eq,
      ← shiftIn_eq, ← shiftIn_eq]
    exact ⟨hnt, hat, hlo, hhi, hbgLo, hbgHi, hatLo, hatHi, hbits⟩
  case still =>
    obtain ⟨_, _, _, _, _, _, _, hnext⟩ := Ppu.next_idle s.launch s.spriteDraws (hfetching.trans h)
    rw [hnext]
    exact ⟨rfl, rfl, rfl, rfl, rfl, rfl, rfl, rfl, rfl, rfl⟩

/-- Settles O57: eight cycles of a fetch window (`pipe_iterate`) are seven that fetch and shift and one that reloads
(`Ppu.pipeRun_eight`), whose shifters, latches and `v` are said field by field. -/
theorem tileFetch : Obligations.TileFetch := by
  intro s p q m nt attr pattern hp hm he hl hc hwindow hnt hattr hpattern hq
  subst hp hm hattr
  obtain ⟨hscanline, hcycle, -, hpipe⟩ := pipe_iterate (renderLine_eq_true_iff.mpr hl) he 8 fun j hj =>
    fetchWindow_eq_true_iff.mpr (by omega)
  rw [← hq] at hscanline hcycle hpipe
  rw [← nametableAddress_eq] at hnt
  obtain ⟨hbgLo, hbgHi, hatLo, hatHi, hbits, hv, hstill⟩ := Ppu.pipeRun_eight s.launch.mirroring (c := s.ppu.cycle) s.ppu.pipe hc
    hnt.symm ((Ppu.patternAddress_eq _).trans hpattern.symm)
  rw [← hpipe] at hbgLo hbgHi hatLo hatHi hbits hv hstill
  rw [← attributeAddress_eq]
  exact ⟨hbgLo, hbgHi, hatLo, hatHi, hbits, hv, hscanline, hcycle, (congrArg Ppu.ctrl hstill :), (congrArg Ppu.mask hstill :),
    (congrArg Ppu.oamAddr hstill :), (congrArg Ppu.t hstill :), (congrArg Ppu.fineX hstill :), (congrArg Ppu.w hstill :),
    (congrArg Ppu.oam hstill :), (congrArg Ppu.secondaryOam hstill :), (congrArg Ppu.nt hstill :), (congrArg Ppu.pal hstill :),
    (congrArg Ppu.chr hstill :)⟩

end Sys2Proof
end

section
/-!
PROOFS. The host's queries (R306 to R309, R342): a pixel of a tile from its two plane bytes, the attribute byte and the selector
bits of a nametable tile, and the bound on a colour index.
-/
namespace Sys2Proof.Machine

/-! ## A pixel of a tile -/

theorem getElem?_tileRow (lo hi : Byte) {x : Nat} (hx : x < 8) : (tileRow lo hi)[x]? = some (tilePixel lo hi x) := by
  rw [tileRow, List.getElem?_map, List.getElem?_range hx, Option.map_some]

/-- R306: the two planes of row `r` lie 8 apart. -/
theorem getElem?_tileAt (s : State) (a : BitVec 14) {r : Nat} (hr : r < 8) : (tileAt s a)[r]? = some
    (tileRow (vramRead s.launch.mirroring s.ppu (a + BitVec.ofNat 14 r))
      (vramRead s.launch.mirroring s.ppu (a + BitVec.ofNat 14 (r + 8)))) := by
  have hplane : a + BitVec.ofNat 14 (r + 8) = a + BitVec.ofNat 14 r + 8 := by
    rw [BitVec.ofNat_add, BitVec.add_assoc]
    rfl
  rw [tileAt, List.getElem?_map, List.getElem?_range hr, Option.map_some, hplane]

/-! ## The palette of a tile -/

/-- The parts of the attribute byte's address that R308 gives lie beside each other as those of R291 do. -/
theorem paletteSelectFields : ∀ table < 4, ∀ y < 8, ∀ x < 8,
    (8 + table &&& 0xB) * 2 ^ 10 ||| 0x3C0 ||| y * 8 ||| x = 0x23C0 + table * 1024 + y * 8 + x := by
  decide

/-- R291, R308: the attribute byte of a tile is the one the renderer fetches for it. -/
theorem paletteSelectAddress_eq (v : BitVec 15) : paletteSelectAddress (0x2000 + v.toNat % 4096) = attributeAddress v := by
  apply BitVec.eq_of_toNat_eq
  have hmask : 0x2000 + v.toNat % 4096 &&& 0x2C00 = (8 + v.toNat / 1024 % 4 &&& 0xB) * 2 ^ 10 := by
    rw [show 8 + v.toNat / 1024 % 4 = (0x2000 + v.toNat % 4096) / 2 ^ 10 by omega]
    exact and_mul_two_pow _ 0xB 10
  have hfields := paletteSelectFields (v.toNat / 1024 % 4) (by omega) (v.toNat / 128 % 8) (by omega) (v.toNat / 4 % 8) (by omega)
  have hy : (0x2000 + v.toNat % 4096) % 0x400 / 32 / 4 * 8 = v.toNat / 128 % 8 * 8 := by omega
  have hx : (0x2000 + v.toNat % 4096) % 0x400 % 32 / 4 = v.toNat / 4 % 8 := by omega
  rw [toNat_attributeAddress, ← hfields, ← hmask, paletteSelectAddress, hy, hx, BitVec.toNat_or, BitVec.toNat_or,
    BitVec.toNat_or, BitVec.toNat_and, BitVec.toNat_ofNat, BitVec.toNat_ofNat, BitVec.toNat_ofNat,
    Nat.mod_eq_of_lt (show 0x2000 + v.toNat % 4096 < 2 ^ 14 by omega),
    Nat.mod_eq_of_lt (show v.toNat / 128 % 8 * 8 < 2 ^ 14 by omega), Nat.mod_eq_of_lt (show v.toNat / 4 % 8 < 2 ^ 14 by omega)]
  rfl

/-- R308: bit 1 of the tile's row is bit 1 of coarse Y. -/
theorem tileRow_testBit (v : BitVec 15) : ((0x2000 + v.toNat % 4096) % 0x400 / 32).testBit 1 = v.getLsbD 6 := by
  rw [← BitVec.testBit_toNat, Nat.testBit_eq_decide_div_mod_eq, Nat.testBit_eq_decide_div_mod_eq, decide_eq_decide]
  omega

/-- R308: bit 1 of the tile's column is bit 1 of coarse X. -/
theorem tileColumn_testBit (v : BitVec 15) : ((0x2000 + v.toNat % 4096) % 0x400 % 32).testBit 1 = v.getLsbD 1 := by
  rw [← BitVec.testBit_toNat, Nat.testBit_eq_decide_div_mod_eq, Nat.testBit_eq_decide_div_mod_eq, decide_eq_decide]
  omega

theorem isNametableTile_eq (v : BitVec 15) (h : v.toNat % 1024 < 0x3C0) : isNametableTile (0x2000 + v.toNat % 4096) = true := by
  simp only [isNametableTile, Bool.and_eq_true, decide_eq_true_eq]
  omega

end Sys2Proof.Machine

namespace Sys2Proof

open Sys2Proof.Machine

/-- Settles O59: the pixels by the rows of the tile (`getElem?_tileAt`, `getElem?_tileRow`), the palette because its attribute
byte and selector bits are the renderer's (`paletteSelectAddress_eq`), the colour by the bound on its index. -/
theorem hostQueries : Obligations.HostQueries := by
  refine ⟨fun s a r x hr hx => ?pixel, fun s v hv => ?palette, fun i => ⟨fun h => if_pos h, fun h => if_neg (by omega)⟩⟩
  case pixel => exact ⟨_, _, getElem?_tileAt s a hr, getElem?_tileRow _ _ hx, toNat_twoBits _ _⟩
  case palette =>
    rw [paletteSelect, if_pos (isNametableTile_eq v hv), paletteSelectAddress_eq, tileRow_testBit, tileColumn_testBit]

end Sys2Proof
end
